-- ==== Sys2Proof/Word.lean ====
section
/-! DEFINITION. The widths of leeloo CORE (spec/00_scope.md R4, R5) and the register index type (spec/10_state.md R11). -/

namespace Sys2Proof

/-- A word: 32 bits, the width of instructions, pc and npc (`INSTR_WIDTH`, `PC_WIDTH`, R4). -/
abbrev Word := BitVec 32

/-- A dword: 64 bits (R5). -/
abbrev Dword := BitVec 64

/-- A qword: 128 bits (R5), the width of a general register (`GPR_WIDTH`, R4). -/
abbrev Qword := BitVec 128

/-- One byte of the program text behind `Fetch` (R43). -/
abbrev Byte := BitVec 8

/-- The number of general registers (`GPR_COUNT`, R4, R10). -/
abbrev gprCount : Nat := 32

/-- A general-register index: a 5-bit field, so always 0 to 31 (R11); no out-of-range index exists. -/
abbrev RegIdx := Fin 32

/-- The value of a 6-bit field: `opcode` or `funct` (R51). -/
abbrev Code6 := BitVec 6

/-- The `sa` field: an unsigned 5-bit number, 0 to 31 (R51, R58). -/
abbrev ShAmt := BitVec 5

end Sys2Proof
end

