-- ==== Sys2Proof/Syntax.lean ====
section
/-! DEFINITION. The instruction set of leeloo CORE as syntax: the 52 operations of spec/30_encoding.md R56, one `Instr` constructor per
row of spec/opcode_table.json, the six decoded fields (R51), the operand forms (R57, R63), assembler terms (R63) and the
pseudo-instructions the spec warns of (R64). -/

namespace Sys2Proof

/-- The 52 operations of the SPECIAL family (R56), by mnemonic; `brk` is BREAK. `FUNCT_MAP` maps funct values to these. -/
inductive Op where
  | sll | srl | sra | sllv | srlv | srav | jr | jalr | movz | movn | syscall | brk | sync | mfhi | mthi 
  | mflo | mtlo | dsllv | dsrlv | dsrav | mult | multu | div | divu | add | addu | sub | subu | and | or 
  | xor | nor | mfsa | mtsa | slt | sltu | dadd | daddu | dsub | dsubu | tge | tgeu | tlt | tltu | teq 
  | tne | dsll | dsrl | dsra | dsll32 | dsrl32 | dsra32
  deriving DecidableEq, Repr

/-- One instruction: an operation with exactly the fields it uses (R57), in the operand order of R63. A field the operation
ignores (R57, D16) is not part of the term. -/
inductive Instr where
  /-- `SLL rd, rt, sa`, funct 0x00 (R71). -/
  | sll (rd rt : RegIdx) (sa : ShAmt)
  /-- `SRL rd, rt, sa`, funct 0x02 (R72). -/
  | srl (rd rt : RegIdx) (sa : ShAmt)
  /-- `SRA rd, rt, sa`, funct 0x03 (R73). -/
  | sra (rd rt : RegIdx) (sa : ShAmt)
  /-- `SLLV rd, rt, rs`, funct 0x04 (R74). -/
  | sllv (rd rt rs : RegIdx)
  /-- `SRLV rd, rt, rs`, funct 0x06 (R75). -/
  | srlv (rd rt rs : RegIdx)
  /-- `SRAV rd, rt, rs`, funct 0x07 (R76). -/
  | srav (rd rt rs : RegIdx)
  /-- `JR rs`, funct 0x08 (R90). -/
  | jr (rs : RegIdx)
  /-- `JALR rd, rs`, funct 0x09 (R91). -/
  | jalr (rd rs : RegIdx)
  /-- `MOVZ rd, rs, rt`, funct 0x0A (R95). -/
  | movz (rd rs rt : RegIdx)
  /-- `MOVN rd, rs, rt`, funct 0x0B (R96). -/
  | movn (rd rs rt : RegIdx)
  /-- `SYSCALL`, funct 0x0C (R142). -/
  | syscall
  /-- `BREAK`, funct 0x0D (R143). -/
  | brk
  /-- `SYNC`, funct 0x0F (R144). -/
  | sync
  /-- `MFHI rd`, funct 0x10 (R98). -/
  | mfhi (rd : RegIdx)
  /-- `MTHI rs`, funct 0x11 (R99). -/
  | mthi (rs : RegIdx)
  /-- `MFLO rd`, funct 0x12 (R100). -/
  | mflo (rd : RegIdx)
  /-- `MTLO rs`, funct 0x13 (R101). -/
  | mtlo (rs : RegIdx)
  /-- `DSLLV rd, rt, rs`, funct 0x14 (R78). -/
  | dsllv (rd rt rs : RegIdx)
  /-- `DSRLV rd, rt, rs`, funct 0x16 (R79). -/
  | dsrlv (rd rt rs : RegIdx)
  /-- `DSRAV rd, rt, rs`, funct 0x17 (R80). -/
  | dsrav (rd rt rs : RegIdx)
  /-- `MULT rs, rt`, funct 0x18 (R106). -/
  | mult (rs rt : RegIdx)
  /-- `MULTU rs, rt`, funct 0x19 (R107). -/
  | multu (rs rt : RegIdx)
  /-- `DIV rs, rt`, funct 0x1A (R109). -/
  | div (rs rt : RegIdx)
  /-- `DIVU rs, rt`, funct 0x1B (R110). -/
  | divu (rs rt : RegIdx)
  /-- `ADD rd, rs, rt`, funct 0x20 (R116). -/
  | add (rd rs rt : RegIdx)
  /-- `ADDU rd, rs, rt`, funct 0x21 (R121). -/
  | addu (rd rs rt : RegIdx)
  /-- `SUB rd, rs, rt`, funct 0x22 (R117). -/
  | sub (rd rs rt : RegIdx)
  /-- `SUBU rd, rs, rt`, funct 0x23 (R122). -/
  | subu (rd rs rt : RegIdx)
  /-- `AND rd, rs, rt`, funct 0x24 (R128). -/
  | and (rd rs rt : RegIdx)
  /-- `OR rd, rs, rt`, funct 0x25 (R129). -/
  | or (rd rs rt : RegIdx)
  /-- `XOR rd, rs, rt`, funct 0x26 (R130). -/
  | xor (rd rs rt : RegIdx)
  /-- `NOR rd, rs, rt`, funct 0x27 (R131). -/
  | nor (rd rs rt : RegIdx)
  /-- `MFSA rd`, funct 0x28 (R102). -/
  | mfsa (rd : RegIdx)
  /-- `MTSA rs`, funct 0x29 (R103). -/
  | mtsa (rs : RegIdx)
  /-- `SLT rd, rs, rt`, funct 0x2A (R132). -/
  | slt (rd rs rt : RegIdx)
  /-- `SLTU rd, rs, rt`, funct 0x2B (R133). -/
  | sltu (rd rs rt : RegIdx)
  /-- `DADD rd, rs, rt`, funct 0x2C (R118). -/
  | dadd (rd rs rt : RegIdx)
  /-- `DADDU rd, rs, rt`, funct 0x2D (R123). -/
  | daddu (rd rs rt : RegIdx)
  /-- `DSUB rd, rs, rt`, funct 0x2E (R119). -/
  | dsub (rd rs rt : RegIdx)
  /-- `DSUBU rd, rs, rt`, funct 0x2F (R124). -/
  | dsubu (rd rs rt : RegIdx)
  /-- `TGE rs, rt`, funct 0x30 (R136). -/
  | tge (rs rt : RegIdx)
  /-- `TGEU rs, rt`, funct 0x31 (R137). -/
  | tgeu (rs rt : RegIdx)
  /-- `TLT rs, rt`, funct 0x32 (R138). -/
  | tlt (rs rt : RegIdx)
  /-- `TLTU rs, rt`, funct 0x33 (R139). -/
  | tltu (rs rt : RegIdx)
  /-- `TEQ rs, rt`, funct 0x34 (R140). -/
  | teq (rs rt : RegIdx)
  /-- `TNE rs, rt`, funct 0x36 (R141). -/
  | tne (rs rt : RegIdx)
  /-- `DSLL rd, rt, sa`, funct 0x38 (R82). -/
  | dsll (rd rt : RegIdx) (sa : ShAmt)
  /-- `DSRL rd, rt, sa`, funct 0x3A (R83). -/
  | dsrl (rd rt : RegIdx) (sa : ShAmt)
  /-- `DSRA rd, rt, sa`, funct 0x3B (R84). -/
  | dsra (rd rt : RegIdx) (sa : ShAmt)
  /-- `DSLL32 rd, rt, sa`, funct 0x3C (R85). -/
  | dsll32 (rd rt : RegIdx) (sa : ShAmt)
  /-- `DSRL32 rd, rt, sa`, funct 0x3E (R86). -/
  | dsrl32 (rd rt : RegIdx) (sa : ShAmt)
  /-- `DSRA32 rd, rt, sa`, funct 0x3F (R87). -/
  | dsra32 (rd rt : RegIdx) (sa : ShAmt)
  deriving DecidableEq, Repr

/-- The operation of an instruction. -/
def Instr.op : Instr → Op
  | .sll _ _ _ => .sll
  | .srl _ _ _ => .srl
  | .sra _ _ _ => .sra
  | .sllv _ _ _ => .sllv
  | .srlv _ _ _ => .srlv
  | .srav _ _ _ => .srav
  | .jr _ => .jr
  | .jalr _ _ => .jalr
  | .movz _ _ _ => .movz
  | .movn _ _ _ => .movn
  | .syscall => .syscall
  | .brk => .brk
  | .sync => .sync
  | .mfhi _ => .mfhi
  | .mthi _ => .mthi
  | .mflo _ => .mflo
  | .mtlo _ => .mtlo
  | .dsllv _ _ _ => .dsllv
  | .dsrlv _ _ _ => .dsrlv
  | .dsrav _ _ _ => .dsrav
  | .mult _ _ => .mult
  | .multu _ _ => .multu
  | .div _ _ => .div
  | .divu _ _ => .divu
  | .add _ _ _ => .add
  | .addu _ _ _ => .addu
  | .sub _ _ _ => .sub
  | .subu _ _ _ => .subu
  | .and _ _ _ => .and
  | .or _ _ _ => .or
  | .xor _ _ _ => .xor
  | .nor _ _ _ => .nor
  | .mfsa _ => .mfsa
  | .mtsa _ => .mtsa
  | .slt _ _ _ => .slt
  | .sltu _ _ _ => .sltu
  | .dadd _ _ _ => .dadd
  | .daddu _ _ _ => .daddu
  | .dsub _ _ _ => .dsub
  | .dsubu _ _ _ => .dsubu
  | .tge _ _ => .tge
  | .tgeu _ _ => .tgeu
  | .tlt _ _ => .tlt
  | .tltu _ _ => .tltu
  | .teq _ _ => .teq
  | .tne _ _ => .tne
  | .dsll _ _ _ => .dsll
  | .dsrl _ _ _ => .dsrl
  | .dsra _ _ _ => .dsra
  | .dsll32 _ _ _ => .dsll32
  | .dsrl32 _ _ _ => .dsrl32
  | .dsra32 _ _ _ => .dsra32

/-- The six fields of an instruction word (R51). -/
structure Fields where
  /-- bits 31:26 -/
  opcode : Code6
  /-- bits 25:21 -/
  rs : RegIdx
  /-- bits 20:16 -/
  rt : RegIdx
  /-- bits 15:11 -/
  rd : RegIdx
  /-- bits 10:6 -/
  sa : ShAmt
  /-- bits 5:0 -/
  funct : Code6
  deriving DecidableEq, Repr

/-- Why the dispatcher rejects a word (R54, R55); the core returns it as the fault of the same name (R148, R149). -/
inductive Reject where
  /-- opcode is not the SPECIAL opcode (R54); carries the opcode (D15) -/
  | unimplementedOpcode (opcode : Code6)
  /-- opcode is SPECIAL and funct is unassigned (R55, R59); carries the funct value (D15) -/
  | unimplementedFunction (funct : Code6)
  deriving DecidableEq, Repr

/-- The operand forms of the family: one per row of the syntax table R63 (R57 gives the same grouping by field use). -/
inductive Form where
  /-- `op rd, rt, sa`: the nine fixed shifts -/
  | shiftFixed
  /-- `op rd, rt, rs`: the six variable shifts -/
  | shiftVar
  /-- `JR rs` -/
  | target
  /-- `JALR rd, rs` -/
  | link
  /-- `op rd, rs, rt` -/
  | three
  /-- `MFHI rd`, `MFLO rd`, `MFSA rd` -/
  | moveFrom
  /-- `MTHI rs`, `MTLO rs`, `MTSA rs` -/
  | moveTo
  /-- `op rs, rt`: multiply, divide and the six traps -/
  | pair
  /-- no operand: SYSCALL, BREAK, SYNC -/
  | bare
  deriving DecidableEq, Repr

/-- The form of each operation (R57, R63). -/
def Op.form : Op → Form
  | .sll | .srl | .sra | .dsll | .dsrl | .dsra | .dsll32 | .dsrl32 => .shiftFixed
  | .dsra32 => .shiftFixed
  | .sllv | .srlv | .srav | .dsllv | .dsrlv | .dsrav => .shiftVar
  | .jr => .target
  | .jalr => .link
  | .movz | .movn | .add | .addu | .sub | .subu | .and | .or => .three
  | .xor | .nor | .slt | .sltu | .dadd | .daddu | .dsub | .dsubu => .three
  | .syscall | .brk | .sync => .bare
  | .mfhi | .mflo | .mfsa => .moveFrom
  | .mthi | .mtlo | .mtsa => .moveTo
  | .mult | .multu | .div | .divu | .tge | .tgeu | .tlt | .tltu => .pair
  | .teq | .tne => .pair

/-- All 52 operations, in the order of spec/opcode_table.json. -/
def Op.all : List Op :=
  [.sll, .srl, .sra, .sllv, .srlv, .srav, .jr, .jalr, .movz, .movn, .syscall, .brk, .sync, .mfhi, .mthi, 
   .mflo, .mtlo, .dsllv, .dsrlv, .dsrav, .mult, .multu, .div, .divu, .add, .addu, .sub, .subu, .and, 
   .or, .xor, .nor, .mfsa, .mtsa, .slt, .sltu, .dadd, .daddu, .dsub, .dsubu, .tge, .tgeu, .tlt, .tltu, 
   .teq, .tne, .dsll, .dsrl, .dsra, .dsll32, .dsrl32, .dsra32]

/-- How many operands a form is written with (R63). -/
def Form.arity : Form → Nat
  | .shiftFixed | .shiftVar | .three => 3
  | .link | .pair => 2
  | .target | .moveFrom | .moveTo => 1
  | .bare => 0

/-- An assembler term: an operation and its operands as numbers, in the order of R63 (registers by index, then a shift
amount). It may be ill-formed; `AsmTerm.wellFormed` says when it is not. -/
structure AsmTerm where
  op : Op
  operands : List Nat
  deriving DecidableEq, Repr

/-- The pseudo-instructions of R64, listed there only as a warning: the core defines none. -/
inductive Pseudo where
  | nop
  | move (rd rs : RegIdx)
  | not (rd rs : RegIdx)
  | negu (rd rt : RegIdx)
  | jalr (rs : RegIdx)
  deriving DecidableEq, Repr

/-- The expansion R64 gives; four of the five mean what their name says only while register 0 holds zero. -/
def Pseudo.expand : Pseudo → Instr
  | .nop => .sll 0 0 0
  | .move rd rs => .or rd rs 0
  | .not rd rs => .nor rd rs 0
  | .negu rd rt => .subu rd 0 rt
  | .jalr rs => .jalr 31 rs

end Sys2Proof
end

