-- ==== Sys2Proof/Config.lean ====
section
/-! DEFINITION. The parameters of spec/00_scope.md R4 with status "decision" or "open", and `R0_HARDWIRED`, as one record; those with
status "source" are the types of Sys2Proof/Word.lean and `specialOpcode`. The spec's own values are in
Sys2Proof/Machine/Parameters.lean (`referenceConfig`). -/

namespace Sys2Proof

/-- `FUNCT_MAP` (R56): which operation each funct value selects, as a table; a value that stands in no row is unassigned. -/
abbrev FunctMap := List (Code6 × Op)

/-- The three register fields of a word. -/
inductive GprField where
  | rs | rt | rd
  deriving DecidableEq, Repr

/-- The parameters of the encoding. -/
structure Encoding where
  /-- `FUNCT_MAP` (R56, D3) -/
  functMap : FunctMap
  /-- `MOVE_GPR_FIELD` for MFHI, MFLO, MFSA (D4) -/
  moveFromField : GprField
  /-- `MOVE_GPR_FIELD` for MTHI, MTLO, MTSA (D4) -/
  moveToField : GprField

/-- Signed or unsigned reading of an operand (R5, R111). -/
inductive Signedness where
  | signed | unsigned
  deriving DecidableEq, Repr

/-- The word, dword and qword views of a register's stored value (R6); as a width, 32, 64 or 128 bits. -/
inductive View where
  | word | dword | qword
  deriving DecidableEq, Repr

/-- The number of bits of a view (R5, R6). -/
def View.bits : View → Nat
  | .word => 32
  | .dword => 64
  | .qword => 128

/-- The pair of multiply/divide result registers (R22, R23). -/
structure HiLo where
  hi : Qword
  lo : Qword
  deriving DecidableEq, Repr

/-- `DRIVER` (R166, R170): `s` advances pc before the call, `t` after it. -/
inductive DriverKind where
  | s | t
  deriving DecidableEq, Repr

/-- `FAULT_DISPOSITION` (R169): the reference driver halts; a driver may also go on with the next word (R158). -/
inductive FaultDisposition where
  | halt | resume
  deriving DecidableEq, Repr

/-- `FETCH_BYTE_ORDER` (R43). -/
inductive ByteOrder where
  | little | big
  deriving DecidableEq, Repr

/-- The named parameters of R4 that a claim may depend on. -/
structure Config where
  /-- `FUNCT_MAP` and `MOVE_GPR_FIELD` -/
  encoding : Encoding
  /-- `R0_HARDWIRED` (R12): when true every write to x[0] is discarded -/
  r0Hardwired : Bool
  /-- `HI_WIDTH` (R22, D1) -/
  hiWidth : View
  /-- `LO_WIDTH` (R23, D1) -/
  loWidth : View
  /-- `HILO_XFER` (D1): the view MFHI, MTHI, MFLO, MTLO copy -/
  hiloXfer : View
  /-- `SA_WIDTH` (R24, D2) -/
  saWidth : View
  /-- `SA_XFER` (D2): the view MFSA, MTSA copy -/
  saXfer : View
  /-- `DIV_WIDTH` (R109, R110, D5): the view of the operands and of the results of DIV and DIVU -/
  divWidth : View
  /-- `DIV0` (R111, D6): signedness, the dividend and the old HI, LO give the new HI, LO. The dividend is the operand at
  `DIV_WIDTH`, sign-extended: at the spec's width, `sext_128` of the dividend word -/
  div0 : Signedness → Qword → HiLo → HiLo
  /-- `DIV_OVF` (R112, D7): HI, LO after the one signed division whose quotient does not fit `DIV_WIDTH` -/
  divOvf : HiLo
  /-- `TRAP_VIEW` (R135, D8) -/
  trapView : View
  /-- `MOVZ_TEST_WIDTH` (R95, D9) -/
  movzTestWidth : View
  /-- `LINK_WRITE` (R91, D10): how the 32-bit link fills the register -/
  linkWrite : Word → Qword
  /-- `DSHIFT_PLAIN_AMOUNT` (R81, D11) -/
  dshiftPlainAmount : ShAmt → Nat
  /-- `DRIVER` (R166, R170, D13) -/
  driver : DriverKind
  /-- `FAULT_DISPOSITION` (R169, D14) -/
  faultDisposition : FaultDisposition
  /-- `FETCH_BYTE_ORDER` (R43, D17) -/
  fetchByteOrder : ByteOrder

end Sys2Proof
end

