-- ==== Sys2Proof/Machine/State.lean ====
section
/-! DEFINITION. The machine's state as plain data (spec/10_state.md R30), the five fault kinds (spec/60_exceptions.md R147), the model's
refusals, the outcome of one call of the core (R31) and of one step of the driver (R166), and the state after reset (R36). -/

namespace Sys2Proof.Machine

/-- The architectural state: exactly the list of R30, and two fields of the model's own that are no state of the core: the
program text behind the host's `Fetch` (R41, log 1), and room for a wider SA that the spec's `SA_WIDTH` does not use (log 8). -/
structure State where
  /-- x[0] to x[31], 128 bits each (R10); register 0 is ordinary (R12) -/
  gpr : Vector Qword gprCount
  /-- HI (R22, D1) -/
  hi : Qword
  /-- LO (R23, D1) -/
  lo : Qword
  /-- SA (R24, D2) -/
  sa : Dword
  /-- bits 127:64 of an SA whose `SA_WIDTH` is 128; at the spec's 64 no instruction reads or writes them (log 8) -/
  saUpper : Dword
  /-- the current PC (R25) -/
  pc : Word
  /-- the next PC (R26) -/
  npc : Word
  /-- the bytes behind `Fetch`, by address; an unlisted address has no value (log 1, log 2) -/
  text : List Host.Cell
  deriving DecidableEq, Repr

/-- The operations that can report Arithmetic-Overflow (R150). -/
inductive OverflowOp where
  | add | sub | dadd | dsub
  deriving DecidableEq, Repr

/-- The six trap kinds (R151). -/
inductive TrapKind where
  | tge | tgeu | tlt | tltu | teq | tne
  deriving DecidableEq, Repr

/-- The two software exceptions (R152); `brk` is BREAK. -/
inductive SoftwareKind where
  | syscall | brk
  deriving DecidableEq, Repr

/-- The fault kinds of R147, exactly five. A fault is the outcome the core RETURNS (R153); the call changes no state (R32).
Each is the spec's own, so each is safe. -/
inductive Fault where
  /-- raised by the dispatcher when opcode is not SPECIAL (R54, R148); safe -/
  | unimplementedOpcode (opcode : Code6)
  /-- raised by the dispatcher when funct is unassigned (R55, R149); safe -/
  | unimplementedFunction (funct : Code6)
  /-- raised by ADD, SUB, DADD, DSUB on signed overflow (R115, R150); safe -/
  | arithmeticOverflow (op : OverflowOp)
  /-- raised by the six traps when their condition holds; the payload is the kind and the two register indices (R135, R151); safe -/
  | trap (kind : TrapKind) (rs rt : RegIdx)
  /-- raised by SYSCALL and BREAK always (R142, R143, R152); safe -/
  | softwareException (kind : SoftwareKind)
  deriving DecidableEq, Repr

/-- Why a step answers nothing. No handler answers with one. -/
inductive Refusal where
  /-- an instruction without a meaning yet; raised by no arm of `exec` in this model; safe -/
  | notModelled (mnemonic : String)
  /-- raised by the driver: pc is not a multiple of 4, the run is stuck (R166, D13, log 4); safe -/
  | misalignedFetch (pc : Word)
  /-- raised by the driver: the host loaded no word at pc, the run is stuck (93_implementation_defined.md U16, log 2); safe -/
  | unmappedFetch (pc : Word)
  deriving DecidableEq, Repr

/-- What a handler answers: the state after an `Ok`, or the one fault it raises. A fault carries no state, because the call
changes none (R32). -/
abbrev Result := Except Fault State

/-- The tagged outcome of one call of the core (R31): `Ok` or `Fault(kind, info)`. -/
inductive CoreOutcome where
  | ok
  | fault (f : Fault)
  deriving DecidableEq, Repr

/-- The outcome of one step of a driver (R166, R169). -/
inductive DriverOutcome where
  /-- the run goes on from this state -/
  | running (s : State)
  /-- the run goes on past a reported fault (`FAULT_DISPOSITION` resume, R158) -/
  | resumed (f : Fault) (s : State)
  /-- HALT(out): the fault and the final state of the run (R169) -/
  | halted (f : Fault) (s : State)
  /-- STUCK: the driver does not perform the step; the state is as it was (R166) -/
  | stuck (r : Refusal) (s : State)
  deriving DecidableEq, Repr

/-- A write of one state element by the host between two calls (R35), through the same accessors: HI, LO and SA keep the bits
their width has. -/
inductive HostWrite where
  | gprWord (i : RegIdx) (v : Word)
  | gprDword (i : RegIdx) (v : Dword)
  | gprQword (i : RegIdx) (v : Qword)
  | hi (v : Qword)
  | lo (v : Qword)
  | sa (v : Qword)
  | pc (v : Word)
  | npc (v : Word)
  deriving DecidableEq, Repr

/-- The machine right after reset (R36, R163): every field zero, next-PC 4; the host has loaded no text yet (log 1). -/
def State.reset : State where
  gpr := Vector.replicate gprCount 0
  hi := 0
  lo := 0
  sa := 0
  saUpper := 0
  pc := 0
  npc := 4
  text := []

/-- The canonical form of the program text: addresses strictly rising, all inside the 32-bit address space (R42). No listed
byte can equal what an unlisted address reads as, since that is no value. -/
def Memory.wf (m : List Host.Cell) : Bool :=
  decide (m.Pairwise fun a b => a.1 < b.1) && m.all fun c => decide (c.1 < 2 ^ 32)

end Sys2Proof.Machine
end

