-- ==== Sys2Proof/Machine/Operands.lean ====
section
/-! DEFINITION. Reading operands: the register file's read accessors and views (spec/10_state.md R13, R15, R17), extension (R5), and the
shift amounts (spec/30_encoding.md R58). -/

namespace Sys2Proof.Machine

/-- `x[i]`: the stored 128 bits of a general register; register 0 is not special (R12). -/
def State.reg (s : State) (i : RegIdx) : Qword := s.gpr[i.val]'i.isLt

/-- `v[31:0]` of a 128-bit value. -/
def lowWord (v : Qword) : Word := v.setWidth 32

/-- `v[63:0]` of a 128-bit value. -/
def lowDword (v : Qword) : Dword := v.setWidth 64

/-- `sext_128` of a word: sign-extension to full register width (R5). -/
def sextWord (v : Word) : Qword := v.signExtend 128

/-- `sext_128` of a dword (R5). -/
def sextDword (v : Dword) : Qword := v.signExtend 128

/-- Word read accessor `x[i].w` (R13). -/
def State.readWord (s : State) (i : RegIdx) : Word := lowWord (s.reg i)

/-- Dword read accessor `x[i].d` (R15). -/
def State.readDword (s : State) (i : RegIdx) : Dword := lowDword (s.reg i)

/-- Qword read accessor `x[i].q`, verbatim (R17). -/
def State.readQword (s : State) (i : RegIdx) : Qword := s.reg i

/-- The view of a 128-bit value, sign-extended back to 128 bits: what a plain copy of that width leaves (R97, D1, D2). -/
def viewNarrow (v : View) (x : Qword) : Qword :=
  match v with
  | .word => sextWord (lowWord x)
  | .dword => sextDword (lowDword x)
  | .qword => x

/-- `u(x)` of the view of a 128-bit value (R5). -/
def viewUnsigned (v : View) (x : Qword) : Nat :=
  match v with
  | .word => (lowWord x).toNat
  | .dword => (lowDword x).toNat
  | .qword => x.toNat

/-- `s_N(x)` of the view of a 128-bit value (R5). -/
def viewSigned (v : View) (x : Qword) : Int :=
  match v with
  | .word => (lowWord x).toInt
  | .dword => (lowDword x).toInt
  | .qword => x.toInt

/-- The amount of the variable word shifts: `x[rs][4:0]`, 0 to 31 (R70). -/
def State.shiftAmount5 (s : State) (rs : RegIdx) : Nat := ((s.reg rs).setWidth 5).toNat

/-- The amount of the variable doubleword shifts: `x[rs][5:0]`, 0 to 63 (R77). -/
def State.shiftAmount6 (s : State) (rs : RegIdx) : Nat := ((s.reg rs).setWidth 6).toNat

/-- The amount of DSLL32, DSRL32, DSRA32: `sa + 32`, 32 to 63 (R77). -/
def amountPlus32 (sa : ShAmt) : Nat := sa.toNat + 32

end Sys2Proof.Machine
end

