-- ==== Sys2Proof/Machine/Flags.lean ====
section
/-! DEFINITION. The core has no flags (spec/10_state.md R28). These are the conditions its instructions compute and consume at once:
signed overflow (spec/44_addsub.md R115, R125), the comparisons (R132 to R141), the zero test (R95). -/

namespace Sys2Proof.Machine

/-- The exact integer `r` is in the signed range of `n` bits (R115). -/
def fitsSigned (n : Nat) (r : Int) : Bool := decide (-(2 ^ (n - 1) : Nat) ≤ r) && decide (r < (2 ^ (n - 1) : Nat))

/-- The exact sum of two signed values leaves the signed range (R116, R118). -/
def addOverflows {n : Nat} (a b : BitVec n) : Bool := !fitsSigned n (a.toInt + b.toInt)

/-- The exact difference of two signed values leaves the signed range (R117, R119). -/
def subOverflows {n : Nat} (a b : BitVec n) : Bool := !fitsSigned n (a.toInt - b.toInt)

/-- The condition of each trap on the two registers, under a view, rs on the left (R135 to R141). -/
def trapHolds (v : View) (k : TrapKind) (a b : Qword) : Bool :=
  match k with
  | .tge => decide (viewSigned v a ≥ viewSigned v b)
  | .tgeu => decide (viewUnsigned v a ≥ viewUnsigned v b)
  | .tlt => decide (viewSigned v a < viewSigned v b)
  | .tltu => decide (viewUnsigned v a < viewUnsigned v b)
  | .teq => decide (viewUnsigned v a = viewUnsigned v b)
  | .tne => decide (viewUnsigned v a ≠ viewUnsigned v b)

/-- Signed less-than of two dwords (R132). -/
def lessSigned (a b : Dword) : Bool := decide (a.toInt < b.toInt)

/-- Unsigned less-than of two dwords (R133). -/
def lessUnsigned (a b : Dword) : Bool := decide (a.toNat < b.toNat)

/-- The zero test of MOVZ and MOVN under a view (R95, D9). -/
def testsZero (v : View) (x : Qword) : Bool := decide (viewUnsigned v x = 0)

/-- The 128-bit value SLT and SLTU write: 1 or 0 (R132). -/
def boolQword (b : Bool) : Qword := if b then 1 else 0

end Sys2Proof.Machine
end

