-- ==== Sys2Proof/WellFormed.lean ====
section
/-! DEFINITION. What must hold of terms before they mean anything: assembler terms (spec/30_encoding.md R63), the FUNCT_MAP table (R56)
and instructions. An instruction's operands are in range by their types (spec/10_state.md R11). -/

namespace Sys2Proof

/-- Check 1 of an assembler term: it has the operands of its row of R63, no more and no fewer. -/
def AsmTerm.arityOk (t : AsmTerm) : Bool := t.operands.length == t.op.form.arity

/-- Check 2 of an assembler term: every operand fits its 5-bit field (R11, R58). -/
def AsmTerm.rangeOk (t : AsmTerm) : Bool := t.operands.all (· < 32)

/-- A well-formed assembler term. -/
def AsmTerm.wellFormed (t : AsmTerm) : Bool := t.arityOk && t.rangeOk

/-- Check 1 of a FUNCT_MAP: no funct value stands in two rows, so dispatch is "by exact match" to one handler (R55). -/
def FunctMap.functsDistinct (m : FunctMap) : Bool := decide (m.map (·.1)).Nodup

/-- Check 2 of a FUNCT_MAP: no operation stands in two rows (R56, "appears exactly once"). -/
def FunctMap.opsDistinct (m : FunctMap) : Bool := decide (m.map (·.2)).Nodup

/-- Check 3 of a FUNCT_MAP: every one of the 52 operations has a row (R56, "appears exactly once"). -/
def FunctMap.complete (m : FunctMap) : Bool := Op.all.all fun op => (m.map (·.2)).contains op

/-- A FUNCT_MAP in which each of the 52 operations appears exactly once (R56). -/
def FunctMap.wellFormed (m : FunctMap) : Bool := m.functsDistinct && m.opsDistinct && m.complete

/-- The operands of an instruction as numbers, in the order of R63. -/
def Instr.operands : Instr → List Nat
  | .sll rd rt sa => [rd.val, rt.val, sa.toNat]
  | .srl rd rt sa => [rd.val, rt.val, sa.toNat]
  | .sra rd rt sa => [rd.val, rt.val, sa.toNat]
  | .sllv rd rt rs => [rd.val, rt.val, rs.val]
  | .srlv rd rt rs => [rd.val, rt.val, rs.val]
  | .srav rd rt rs => [rd.val, rt.val, rs.val]
  | .jr rs => [rs.val]
  | .jalr rd rs => [rd.val, rs.val]
  | .movz rd rs rt => [rd.val, rs.val, rt.val]
  | .movn rd rs rt => [rd.val, rs.val, rt.val]
  | .syscall => []
  | .brk => []
  | .sync => []
  | .mfhi rd => [rd.val]
  | .mthi rs => [rs.val]
  | .mflo rd => [rd.val]
  | .mtlo rs => [rs.val]
  | .dsllv rd rt rs => [rd.val, rt.val, rs.val]
  | .dsrlv rd rt rs => [rd.val, rt.val, rs.val]
  | .dsrav rd rt rs => [rd.val, rt.val, rs.val]
  | .mult rs rt => [rs.val, rt.val]
  | .multu rs rt => [rs.val, rt.val]
  | .div rs rt => [rs.val, rt.val]
  | .divu rs rt => [rs.val, rt.val]
  | .add rd rs rt => [rd.val, rs.val, rt.val]
  | .addu rd rs rt => [rd.val, rs.val, rt.val]
  | .sub rd rs rt => [rd.val, rs.val, rt.val]
  | .subu rd rs rt => [rd.val, rs.val, rt.val]
  | .and rd rs rt => [rd.val, rs.val, rt.val]
  | .or rd rs rt => [rd.val, rs.val, rt.val]
  | .xor rd rs rt => [rd.val, rs.val, rt.val]
  | .nor rd rs rt => [rd.val, rs.val, rt.val]
  | .mfsa rd => [rd.val]
  | .mtsa rs => [rs.val]
  | .slt rd rs rt => [rd.val, rs.val, rt.val]
  | .sltu rd rs rt => [rd.val, rs.val, rt.val]
  | .dadd rd rs rt => [rd.val, rs.val, rt.val]
  | .daddu rd rs rt => [rd.val, rs.val, rt.val]
  | .dsub rd rs rt => [rd.val, rs.val, rt.val]
  | .dsubu rd rs rt => [rd.val, rs.val, rt.val]
  | .tge rs rt => [rs.val, rt.val]
  | .tgeu rs rt => [rs.val, rt.val]
  | .tlt rs rt => [rs.val, rt.val]
  | .tltu rs rt => [rs.val, rt.val]
  | .teq rs rt => [rs.val, rt.val]
  | .tne rs rt => [rs.val, rt.val]
  | .dsll rd rt sa => [rd.val, rt.val, sa.toNat]
  | .dsrl rd rt sa => [rd.val, rt.val, sa.toNat]
  | .dsra rd rt sa => [rd.val, rt.val, sa.toNat]
  | .dsll32 rd rt sa => [rd.val, rt.val, sa.toNat]
  | .dsrl32 rd rt sa => [rd.val, rt.val, sa.toNat]
  | .dsra32 rd rt sa => [rd.val, rt.val, sa.toNat]

/-- An instruction as an assembler term (R63). -/
def Instr.toAsm (i : Instr) : AsmTerm := ⟨i.op, i.operands⟩

/-- A well-formed instruction: one whose assembler term is. Every instruction is (R11): the operand types admit no other. -/
def Instr.wellFormed (i : Instr) : Bool := i.toAsm.wellFormed

end Sys2Proof
end

