-- ==== Sys2Proof/Decode.lean ====
section
/-! DEFINITION. Decoder and level-1/level-2 dispatch of spec/30_encoding.md (R50 to R62), the encoder (R53, R65), the assembler syntax as a
function (R63), and `decodeTableWord`. -/

namespace Sys2Proof

/-- The SPECIAL primary opcode (R54). -/
def specialOpcode : Code6 := 0

/-- A register index from its 5-bit field. -/
def regOfBits (b : BitVec 5) : RegIdx := b.toFin

/-- The 5-bit field of a register index. -/
def bitsOfReg (i : RegIdx) : BitVec 5 := BitVec.ofFin i

/-- The decoder: pure extraction of the six fields, total on every word (R52, R53). -/
def decodeFields (w : Word) : Fields where
  opcode := w.extractLsb' 26 6
  rs := regOfBits (w.extractLsb' 21 5)
  rt := regOfBits (w.extractLsb' 16 5)
  rd := regOfBits (w.extractLsb' 11 5)
  sa := w.extractLsb' 6 5
  funct := w.extractLsb' 0 6

/-- The unique word that decodes to the given fields (R53). -/
def encodeFields (f : Fields) : Word :=
  (f.opcode.setWidth 32 <<< 26) ||| ((bitsOfReg f.rs).setWidth 32 <<< 21) ||| ((bitsOfReg f.rt).setWidth 32 <<< 16) |||
    ((bitsOfReg f.rd).setWidth 32 <<< 11) ||| (f.sa.setWidth 32 <<< 6) ||| f.funct.setWidth 32

/-- All fields zero: what the canonical word has in the fields its syntax does not name (R63, R65). -/
def zeroFields : Fields := ⟨specialOpcode, 0, 0, 0, 0, 0⟩

/-- The register a field choice names (`MOVE_GPR_FIELD`, D4). -/
def fieldReg (f : Fields) : GprField → RegIdx
  | .rs => f.rs
  | .rt => f.rt
  | .rd => f.rd

/-- `zeroFields` with one register field set. -/
def withFieldReg (g : GprField) (i : RegIdx) : Fields :=
  match g with
  | .rs => { zeroFields with rs := i }
  | .rt => { zeroFields with rt := i }
  | .rd => { zeroFields with rd := i }

/-- The default FUNCT_MAP, the standard MIPS SPECIAL codes (R56, D3; PRESUMED, log 5). -/
def standardFunctMap : FunctMap :=
  [(0x00, .sll), (0x02, .srl), (0x03, .sra), (0x04, .sllv), (0x06, .srlv), (0x07, .srav), (0x08, .jr),
   (0x09, .jalr), (0x0A, .movz), (0x0B, .movn), (0x0C, .syscall), (0x0D, .brk), (0x0F, .sync), (0x10, .mfhi),
   (0x11, .mthi), (0x12, .mflo), (0x13, .mtlo), (0x14, .dsllv), (0x16, .dsrlv), (0x17, .dsrav), (0x18, .mult),
   (0x19, .multu), (0x1A, .div), (0x1B, .divu), (0x20, .add), (0x21, .addu), (0x22, .sub), (0x23, .subu),
   (0x24, .and), (0x25, .or), (0x26, .xor), (0x27, .nor), (0x28, .mfsa), (0x29, .mtsa), (0x2A, .slt),
   (0x2B, .sltu), (0x2C, .dadd), (0x2D, .daddu), (0x2E, .dsub), (0x2F, .dsubu), (0x30, .tge), (0x31, .tgeu),
   (0x32, .tlt), (0x33, .tltu), (0x34, .teq), (0x36, .tne), (0x38, .dsll), (0x3A, .dsrl), (0x3B, .dsra),
   (0x3C, .dsll32), (0x3E, .dsrl32), (0x3F, .dsra32)]

/-- The encoding of the reference configuration: FUNCT_MAP by D3, MOVE_GPR_FIELD by D4 (log 5, log 6). -/
def standardEncoding : Encoding where
  functMap := standardFunctMap
  moveFromField := .rd
  moveToField := .rs

/-- The operation a funct value selects: an exact match in the table (R55). -/
def opOfFunct : FunctMap → Code6 → Option Op
  | [], _ => none
  | (k, op) :: rows, funct => if k = funct then some op else opOfFunct rows funct

/-- The funct value of an operation (R65); 0 for an operation the table lacks, which `FunctMap.wellFormed` excludes. -/
def functOfOp : FunctMap → Op → Code6
  | [], _ => 0
  | (k, o) :: rows, op => if o = op then k else functOfOp rows op

/-- The instruction of an operation with its operands taken from the fields R57 says it uses. -/
def instrOfFields (e : Encoding) (f : Fields) : Op → Instr
  | .sll => .sll f.rd f.rt f.sa
  | .srl => .srl f.rd f.rt f.sa
  | .sra => .sra f.rd f.rt f.sa
  | .sllv => .sllv f.rd f.rt f.rs
  | .srlv => .srlv f.rd f.rt f.rs
  | .srav => .srav f.rd f.rt f.rs
  | .jr => .jr f.rs
  | .jalr => .jalr f.rd f.rs
  | .movz => .movz f.rd f.rs f.rt
  | .movn => .movn f.rd f.rs f.rt
  | .syscall => .syscall
  | .brk => .brk
  | .sync => .sync
  | .mfhi => .mfhi (fieldReg f e.moveFromField)
  | .mthi => .mthi (fieldReg f e.moveToField)
  | .mflo => .mflo (fieldReg f e.moveFromField)
  | .mtlo => .mtlo (fieldReg f e.moveToField)
  | .dsllv => .dsllv f.rd f.rt f.rs
  | .dsrlv => .dsrlv f.rd f.rt f.rs
  | .dsrav => .dsrav f.rd f.rt f.rs
  | .mult => .mult f.rs f.rt
  | .multu => .multu f.rs f.rt
  | .div => .div f.rs f.rt
  | .divu => .divu f.rs f.rt
  | .add => .add f.rd f.rs f.rt
  | .addu => .addu f.rd f.rs f.rt
  | .sub => .sub f.rd f.rs f.rt
  | .subu => .subu f.rd f.rs f.rt
  | .and => .and f.rd f.rs f.rt
  | .or => .or f.rd f.rs f.rt
  | .xor => .xor f.rd f.rs f.rt
  | .nor => .nor f.rd f.rs f.rt
  | .mfsa => .mfsa (fieldReg f e.moveFromField)
  | .mtsa => .mtsa (fieldReg f e.moveToField)
  | .slt => .slt f.rd f.rs f.rt
  | .sltu => .sltu f.rd f.rs f.rt
  | .dadd => .dadd f.rd f.rs f.rt
  | .daddu => .daddu f.rd f.rs f.rt
  | .dsub => .dsub f.rd f.rs f.rt
  | .dsubu => .dsubu f.rd f.rs f.rt
  | .tge => .tge f.rs f.rt
  | .tgeu => .tgeu f.rs f.rt
  | .tlt => .tlt f.rs f.rt
  | .tltu => .tltu f.rs f.rt
  | .teq => .teq f.rs f.rt
  | .tne => .tne f.rs f.rt
  | .dsll => .dsll f.rd f.rt f.sa
  | .dsrl => .dsrl f.rd f.rt f.sa
  | .dsra => .dsra f.rd f.rt f.sa
  | .dsll32 => .dsll32 f.rd f.rt f.sa
  | .dsrl32 => .dsrl32 f.rd f.rt f.sa
  | .dsra32 => .dsra32 f.rd f.rt f.sa

/-- The operand fields of an instruction, the fields it ignores zero (R57, R63). -/
def operandFields (e : Encoding) : Instr → Fields
  | .sll rd rt sa => { zeroFields with rd := rd, rt := rt, sa := sa }
  | .srl rd rt sa => { zeroFields with rd := rd, rt := rt, sa := sa }
  | .sra rd rt sa => { zeroFields with rd := rd, rt := rt, sa := sa }
  | .sllv rd rt rs => { zeroFields with rd := rd, rt := rt, rs := rs }
  | .srlv rd rt rs => { zeroFields with rd := rd, rt := rt, rs := rs }
  | .srav rd rt rs => { zeroFields with rd := rd, rt := rt, rs := rs }
  | .jr rs => { zeroFields with rs := rs }
  | .jalr rd rs => { zeroFields with rd := rd, rs := rs }
  | .movz rd rs rt => { zeroFields with rd := rd, rs := rs, rt := rt }
  | .movn rd rs rt => { zeroFields with rd := rd, rs := rs, rt := rt }
  | .syscall => zeroFields
  | .brk => zeroFields
  | .sync => zeroFields
  | .mfhi rd => withFieldReg e.moveFromField rd
  | .mthi rs => withFieldReg e.moveToField rs
  | .mflo rd => withFieldReg e.moveFromField rd
  | .mtlo rs => withFieldReg e.moveToField rs
  | .dsllv rd rt rs => { zeroFields with rd := rd, rt := rt, rs := rs }
  | .dsrlv rd rt rs => { zeroFields with rd := rd, rt := rt, rs := rs }
  | .dsrav rd rt rs => { zeroFields with rd := rd, rt := rt, rs := rs }
  | .mult rs rt => { zeroFields with rs := rs, rt := rt }
  | .multu rs rt => { zeroFields with rs := rs, rt := rt }
  | .div rs rt => { zeroFields with rs := rs, rt := rt }
  | .divu rs rt => { zeroFields with rs := rs, rt := rt }
  | .add rd rs rt => { zeroFields with rd := rd, rs := rs, rt := rt }
  | .addu rd rs rt => { zeroFields with rd := rd, rs := rs, rt := rt }
  | .sub rd rs rt => { zeroFields with rd := rd, rs := rs, rt := rt }
  | .subu rd rs rt => { zeroFields with rd := rd, rs := rs, rt := rt }
  | .and rd rs rt => { zeroFields with rd := rd, rs := rs, rt := rt }
  | .or rd rs rt => { zeroFields with rd := rd, rs := rs, rt := rt }
  | .xor rd rs rt => { zeroFields with rd := rd, rs := rs, rt := rt }
  | .nor rd rs rt => { zeroFields with rd := rd, rs := rs, rt := rt }
  | .mfsa rd => withFieldReg e.moveFromField rd
  | .mtsa rs => withFieldReg e.moveToField rs
  | .slt rd rs rt => { zeroFields with rd := rd, rs := rs, rt := rt }
  | .sltu rd rs rt => { zeroFields with rd := rd, rs := rs, rt := rt }
  | .dadd rd rs rt => { zeroFields with rd := rd, rs := rs, rt := rt }
  | .daddu rd rs rt => { zeroFields with rd := rd, rs := rs, rt := rt }
  | .dsub rd rs rt => { zeroFields with rd := rd, rs := rs, rt := rt }
  | .dsubu rd rs rt => { zeroFields with rd := rd, rs := rs, rt := rt }
  | .tge rs rt => { zeroFields with rs := rs, rt := rt }
  | .tgeu rs rt => { zeroFields with rs := rs, rt := rt }
  | .tlt rs rt => { zeroFields with rs := rs, rt := rt }
  | .tltu rs rt => { zeroFields with rs := rs, rt := rt }
  | .teq rs rt => { zeroFields with rs := rs, rt := rt }
  | .tne rs rt => { zeroFields with rs := rs, rt := rt }
  | .dsll rd rt sa => { zeroFields with rd := rd, rt := rt, sa := sa }
  | .dsrl rd rt sa => { zeroFields with rd := rd, rt := rt, sa := sa }
  | .dsra rd rt sa => { zeroFields with rd := rd, rt := rt, sa := sa }
  | .dsll32 rd rt sa => { zeroFields with rd := rd, rt := rt, sa := sa }
  | .dsrl32 rd rt sa => { zeroFields with rd := rd, rt := rt, sa := sa }
  | .dsra32 rd rt sa => { zeroFields with rd := rd, rt := rt, sa := sa }

/-- Decode and dispatch under an encoding: level 1 on opcode (R54), level 2 on funct alone (R55). -/
def decodeWith (e : Encoding) (w : Word) : Except Reject Instr :=
  let f := decodeFields w
  if f.opcode = specialOpcode then
    match opOfFunct e.functMap f.funct with
    | some op => .ok (instrOfFields e f op)
    | none => .error (.unimplementedFunction f.funct)
  else .error (.unimplementedOpcode f.opcode)

/-- Decode and dispatch under the reference encoding. Total on every word; rejects by name (R62). -/
def decode (w : Word) : Except Reject Instr := decodeWith standardEncoding w

/-- The encoder of R65 under an encoding: opcode 0, the operands in their fields, every other field 0. -/
def encodeWith (e : Encoding) (i : Instr) : Word :=
  encodeFields { operandFields e i with opcode := specialOpcode, funct := functOfOp e.functMap i.op }

/-- The canonical word of an instruction under the reference encoding (R65). -/
def encode (i : Instr) : Word := encodeWith standardEncoding i

/-- What the decoder reads from an instruction whose bits are `w`, bit 0 the least significant; every bit from `nbits` on
is zero. The core takes the word by value (R41), so no byte order enters. -/
def decodeTableWord (nbits w : Nat) : Option Instr :=
  match decode (BitVec.ofNat 32 (w % 2 ^ nbits)) with
  | .ok i => some i
  | .error _ => none

/-- The operations of this form use the field `rs` (R57), under the reference encoding. -/
def Form.usesRs : Form → Bool
  | .shiftVar | .target | .link | .three | .moveTo | .pair => true
  | .shiftFixed | .moveFrom | .bare => false

/-- The operations of this form use the field `rt` (R57). -/
def Form.usesRt : Form → Bool
  | .shiftFixed | .shiftVar | .three | .pair => true
  | .target | .link | .moveFrom | .moveTo | .bare => false

/-- The operations of this form use the field `rd` (R57), under the reference encoding. -/
def Form.usesRd : Form → Bool
  | .shiftFixed | .shiftVar | .link | .three | .moveFrom => true
  | .target | .moveTo | .pair | .bare => false

/-- The operations of this form use the field `sa` (R57): the fixed shifts alone (R58). -/
def Form.usesSa : Form → Bool
  | .shiftFixed => true
  | .shiftVar | .target | .link | .three | .moveFrom | .moveTo | .pair | .bare => false

/-- A register index from an operand number; `AsmTerm.wellFormed` bounds it by 32. -/
def regOfNat (n : Nat) : RegIdx := regOfBits (BitVec.ofNat 5 n)

/-- The fields an assembler term's operands set, by the row of R63 for its form; `none` on a wrong operand count. -/
def formFields (e : Encoding) : Form → List Nat → Option Fields
  | .shiftFixed, [rd, rt, sa] =>
    some { zeroFields with rd := regOfNat rd, rt := regOfNat rt, sa := BitVec.ofNat 5 sa }
  | .shiftVar, [rd, rt, rs] => some { zeroFields with rd := regOfNat rd, rt := regOfNat rt, rs := regOfNat rs }
  | .target, [rs] => some { zeroFields with rs := regOfNat rs }
  | .link, [rd, rs] => some { zeroFields with rd := regOfNat rd, rs := regOfNat rs }
  | .three, [rd, rs, rt] => some { zeroFields with rd := regOfNat rd, rs := regOfNat rs, rt := regOfNat rt }
  | .moveFrom, [rd] => some (withFieldReg e.moveFromField (regOfNat rd))
  | .moveTo, [rs] => some (withFieldReg e.moveToField (regOfNat rs))
  | .pair, [rs, rt] => some { zeroFields with rs := regOfNat rs, rt := regOfNat rt }
  | .bare, [] => some zeroFields
  | _, _ => none

/-- The instruction an assembler term stands for (R63); an ill-formed term stands for none. -/
def assemble (t : AsmTerm) : Option Instr :=
  if t.wellFormed then
    match formFields standardEncoding t.op.form t.operands with
    | some f => some (instrOfFields standardEncoding f t.op)
    | none => none
  else none

end Sys2Proof
end

