-- ==== Sys2Proof/Machine/Parameters.lean ====
section
/-! DEFINITION. The values of the parameters of spec/00_scope.md R4: the spec's defaults (`referenceConfig`) and the alternatives it
names. -/

namespace Sys2Proof.Machine

/-- The default `DIV0` (R111, D6, log 10) on the sign-extended dividend: quotient all ones, or 1 for a negative signed
dividend; remainder the dividend; the old HI and LO do not enter. -/
def div0Fill (sg : Signedness) (n : Qword) (_ : HiLo) : HiLo where
  hi := n
  lo :=
    match sg with
    | .unsigned => sextWord 0xFFFFFFFF
    | .signed => if 0 ≤ n.toInt then sextWord 0xFFFFFFFF else sextWord 0x00000001

/-- The named alternative `DIV0`: a silent no-op, HI and LO keep their old values (R111, conflict C5). -/
def div0Noop (_ : Signedness) (_ : Qword) (old : HiLo) : HiLo := old

/-- The default `DIV_OVF`: the quotient -2^31 as a wrapped word, remainder 0 (R112, D7, log 11). -/
def divOvfWrap : HiLo where
  hi := 0
  lo := sextWord 0x80000000

/-- The spec's value of every parameter (R4). -/
def referenceConfig : Config where
  encoding := standardEncoding
  r0Hardwired := false
  hiWidth := .qword
  loWidth := .qword
  hiloXfer := .qword
  saWidth := .dword
  saXfer := .dword
  divWidth := .word
  div0 := div0Fill
  divOvf := divOvfWrap
  trapView := .dword
  movzTestWidth := .qword
  linkWrite := sextWord
  dshiftPlainAmount := BitVec.toNat
  driver := .s
  faultDisposition := .halt
  fetchByteOrder := .little

end Sys2Proof.Machine
end

