-- ==== Sys2Proof/Machine/Ops.lean ====
section
/-! DEFINITION. The named operations the handlers share: the register file's write accessors (spec/10_state.md R14, R16, R18), the special
registers (R22 to R26), raising a fault (spec/60_exceptions.md R153), host writes (R35), and the program text behind `Fetch`
(spec/20_memory.md R41, R43). -/

namespace Sys2Proof.Machine

/-- `x[i]` replaced by `v`, all 128 bits. -/
def State.setReg (s : State) (i : RegIdx) (v : Qword) : State := { s with gpr := s.gpr.set i.val v i.isLt }

/-- Qword write accessor `x[i] <- v` (R18). The one place where `R0_HARDWIRED` acts: when true, a write to x[0] is
discarded (R12); it is false in the reference configuration. -/
def State.writeQword (c : Config) (s : State) (i : RegIdx) (v : Qword) : State :=
  if c.r0Hardwired && decide (i = 0) then s else s.setReg i v

/-- Word write accessor `x[i] <-w v`: a full replace with the sign-extension of `v` (R14). -/
def State.writeWord (c : Config) (s : State) (i : RegIdx) (v : Word) : State := s.writeQword c i (sextWord v)

/-- Dword write accessor `x[i] <-d v`: a full replace with the sign-extension of `v` (R16). -/
def State.writeDword (c : Config) (s : State) (i : RegIdx) (v : Dword) : State := s.writeQword c i (sextDword v)

/-- The field of HI replaced by `v`. -/
def State.setHi (s : State) (v : Qword) : State := { s with hi := v }

/-- The field of LO replaced by `v`. -/
def State.setLo (s : State) (v : Qword) : State := { s with lo := v }

/-- The fields of HI and LO replaced together. -/
def State.setHiLo (s : State) (p : HiLo) : State := { s with hi := p.hi, lo := p.lo }

/-- The field of SA replaced by `v`. -/
def State.setSa (s : State) (v : Dword) : State := { s with sa := v }

/-- The room for a wider SA replaced by `v` (log 8). -/
def State.setSaUpper (s : State) (v : Dword) : State := { s with saUpper := v }

/-- `pc <- v`; only a driver does this (R25). -/
def State.setPc (s : State) (v : Word) : State := { s with pc := v }

/-- `npc <- v` (R26). -/
def State.setNpc (s : State) (v : Word) : State := { s with npc := v }

/-- HI as read: its `HI_WIDTH` bits (R22), sign-extended where they are fewer than 128. -/
def State.readHi (c : Config) (s : State) : Qword := viewNarrow c.hiWidth s.hi

/-- LO as read: its `LO_WIDTH` bits (R23), sign-extended where they are fewer than 128. -/
def State.readLo (c : Config) (s : State) : Qword := viewNarrow c.loWidth s.lo

/-- HI and LO as read, as a pair. -/
def State.readHiLo (c : Config) (s : State) : HiLo := ⟨s.readHi c, s.readLo c⟩

/-- `HI <- v`: HI keeps `HI_WIDTH` bits (R22). -/
def State.writeHi (c : Config) (s : State) (v : Qword) : State := s.setHi (viewNarrow c.hiWidth v)

/-- `LO <- v`: LO keeps `LO_WIDTH` bits (R23). -/
def State.writeLo (c : Config) (s : State) (v : Qword) : State := s.setLo (viewNarrow c.loWidth v)

/-- `(LO, HI) <- p`: both written together, as multiply and divide do (R23). -/
def State.writeHiLo (c : Config) (s : State) (p : HiLo) : State :=
  s.setHiLo ⟨viewNarrow c.hiWidth p.hi, viewNarrow c.loWidth p.lo⟩

/-- SA as read: its `SA_WIDTH` bits (R24), sign-extended where they are fewer than 128. -/
def State.readSa (c : Config) (s : State) : Qword :=
  match c.saWidth with
  | .word => sextWord (s.sa.setWidth 32)
  | .dword => sextDword s.sa
  | .qword => s.saUpper ++ s.sa

/-- The bits 63:0 that SA keeps of `v` at a width. -/
def saLow (w : View) (v : Qword) : Dword :=
  match w with
  | .word => lowDword (sextWord (lowWord v))
  | .dword => lowDword v
  | .qword => lowDword v

/-- The bits above 63 of a 128-bit SA after a write of `v`; a narrower SA has none, and they stay as they were (log 8). -/
def saHigh (w : View) (v : Qword) (old : Dword) : Dword :=
  match w with
  | .word => old
  | .dword => old
  | .qword => v.extractLsb' 64 64

/-- `SA <- v`: SA keeps the low `SA_WIDTH` bits (R24), unmasked (R104). -/
def State.writeSa (c : Config) (s : State) (v : Qword) : State :=
  (s.setSa (saLow c.saWidth v)).setSaUpper (saHigh c.saWidth v s.saUpper)

/-- `raise K(info)`: the one way an instruction raises an exception. The core has no trap entry (R157): nothing is saved, no
vector is taken, no state changes; the fault is the returned value (R153). There is no return from it either (R158). -/
def raiseFault (f : Fault) : Result := .error f

/-- The fault a rejected word raises: the two Unimplemented kinds (R148, R149). -/
def faultOfReject : Reject → Fault
  | .unimplementedOpcode opcode => .unimplementedOpcode opcode
  | .unimplementedFunction funct => .unimplementedFunction funct

/-- A handler's answer as the host's outcome of the instruction. -/
def outcomeOf : Result → Host.Outcome State Fault Refusal
  | .ok s => .next s
  | .error f => .fault f

/-- The host writes one state element between calls (R35). -/
def State.hostWrite (c : Config) (s : State) : HostWrite → State
  | .gprWord i v => s.writeWord c i v
  | .gprDword i v => s.writeDword c i v
  | .gprQword i v => s.writeQword c i v
  | .hi v => s.writeHi c v
  | .lo v => s.writeLo c v
  | .sa v => s.writeSa c v
  | .pc v => s.setPc v
  | .npc v => s.setNpc v

/-- The byte at an address of the program text; no value where the host loaded none (log 2). -/
def readByte : List Host.Cell → Nat → Option Byte
  | [], _ => none
  | (x, v) :: rest, a => if x = a then some v else readByte rest a

/-- The program text with one byte stored, in canonical form. -/
def writeByte : List Host.Cell → Nat → Byte → List Host.Cell
  | [], a, b => [(a, b)]
  | (x, v) :: rest, a, b =>
    if a < x then (a, b) :: (x, v) :: rest
    else if a = x then (a, b) :: rest
    else (x, v) :: writeByte rest a b

/-- Byte `k` of a word in address order (`FETCH_BYTE_ORDER`, R43): with little-endian the low byte lies lowest. -/
def byteOfWord (o : ByteOrder) (w : Word) (k : Nat) : Byte :=
  match o with
  | .little => w.extractLsb' (8 * k) 8
  | .big => w.extractLsb' (24 - 8 * k) 8

/-- The word whose four bytes stand in address order. -/
def wordOfBytes (o : ByteOrder) (b0 b1 b2 b3 : Byte) : Word :=
  match o with
  | .little => b3 ++ b2 ++ b1 ++ b0
  | .big => b0 ++ b1 ++ b2 ++ b3

/-- `Fetch(a)` (R41): the word at an address the host mapped; no value where a byte of it is not loaded (U16). The four
byte addresses are 32-bit (R42); at a multiple of 4, the only place a driver fetches from, they do not wrap. -/
def fetchWord (o : ByteOrder) (m : List Host.Cell) (a : Word) : Option Word :=
  match readByte m a.toNat, readByte m (a + 1).toNat, readByte m (a + 2).toNat, readByte m (a + 3).toNat with
  | some b0, some b1, some b2, some b3 => some (wordOfBytes o b0 b1 b2 b3)
  | _, _, _, _ => none

/-- The host places a word at an address of the program text. -/
def placeWord (o : ByteOrder) (m : List Host.Cell) (a : Word) (w : Word) : List Host.Cell :=
  writeByte (writeByte (writeByte (writeByte m a.toNat (byteOfWord o w 0)) (a + 1).toNat (byteOfWord o w 1))
    (a + 2).toNat (byteOfWord o w 2)) (a + 3).toNat (byteOfWord o w 3)

/-- The host places a program: its words at consecutive word addresses from `a` (R41). -/
def placeProgram (o : ByteOrder) (m : List Host.Cell) (a : Word) : List Word → List Host.Cell
  | [] => m
  | w :: ws => placeProgram o (placeWord o m a w) (a + 4) ws

/-- The byte of the program text at an address, as the state holds it. -/
def State.byteAt (s : State) (a : Nat) : Option Byte := readByte s.text a

end Sys2Proof.Machine
end

