-- ==== Sys2Proof/Machine/AddSub.lean ====
section
/-! DEFINITION. Add and subtract of spec/44_addsub.md (R115 to R126). Only the low word or dword of a source is read (R126, D24). -/

namespace Sys2Proof.Machine

/-- A trapping word form (R115): the fault before any write, else the 32-bit result sign-extended. -/
def trappingWord (c : Config) (op : OverflowOp) (overflows : Bool) (rd : RegIdx) (r : Word) (s : State) : Result :=
  if overflows then raiseFault (.arithmeticOverflow op) else .ok (s.writeWord c rd r)

/-- A trapping doubleword form (R115). -/
def trappingDword (c : Config) (op : OverflowOp) (overflows : Bool) (rd : RegIdx) (r : Dword) (s : State) : Result :=
  if overflows then raiseFault (.arithmeticOverflow op) else .ok (s.writeDword c rd r)

/-- ADD (R116): fault when the exact sum of the low words leaves the signed 32-bit range. -/
def handleAdd (c : Config) (rd rs rt : RegIdx) (s : State) : Result :=
  let a := s.readWord rs
  let b := s.readWord rt
  trappingWord c .add (addOverflows a b) rd (a + b) s

/-- ADD under the reference configuration. -/
def execAdd (rd rs rt : RegIdx) (s : State) : Host.Outcome State Fault Refusal :=
  outcomeOf (handleAdd referenceConfig rd rs rt s)

/-- SUB (R117): `rs` minus `rt`; fault when the exact difference leaves the signed 32-bit range. -/
def handleSub (c : Config) (rd rs rt : RegIdx) (s : State) : Result :=
  let a := s.readWord rs
  let b := s.readWord rt
  trappingWord c .sub (subOverflows a b) rd (a - b) s

/-- SUB under the reference configuration. -/
def execSub (rd rs rt : RegIdx) (s : State) : Host.Outcome State Fault Refusal :=
  outcomeOf (handleSub referenceConfig rd rs rt s)

/-- DADD (R118): fault when the exact sum of the low dwords leaves the signed 64-bit range. -/
def handleDadd (c : Config) (rd rs rt : RegIdx) (s : State) : Result :=
  let a := s.readDword rs
  let b := s.readDword rt
  trappingDword c .dadd (addOverflows a b) rd (a + b) s

/-- DADD under the reference configuration. -/
def execDadd (rd rs rt : RegIdx) (s : State) : Host.Outcome State Fault Refusal :=
  outcomeOf (handleDadd referenceConfig rd rs rt s)

/-- DSUB (R119): `rs` minus `rt`; fault when the exact difference leaves the signed 64-bit range. -/
def handleDsub (c : Config) (rd rs rt : RegIdx) (s : State) : Result :=
  let a := s.readDword rs
  let b := s.readDword rt
  trappingDword c .dsub (subOverflows a b) rd (a - b) s

/-- DSUB under the reference configuration. -/
def execDsub (rd rs rt : RegIdx) (s : State) : Host.Outcome State Fault Refusal :=
  outcomeOf (handleDsub referenceConfig rd rs rt s)

/-- ADDU (R121): the sum of the low words mod 2^32 (R120). -/
def handleAddu (c : Config) (rd rs rt : RegIdx) (s : State) : Result :=
  .ok (s.writeWord c rd (s.readWord rs + s.readWord rt))

/-- ADDU under the reference configuration. -/
def execAddu (rd rs rt : RegIdx) (s : State) : Host.Outcome State Fault Refusal :=
  outcomeOf (handleAddu referenceConfig rd rs rt s)

/-- SUBU (R122): the difference of the low words mod 2^32 (R120). -/
def handleSubu (c : Config) (rd rs rt : RegIdx) (s : State) : Result :=
  .ok (s.writeWord c rd (s.readWord rs - s.readWord rt))

/-- SUBU under the reference configuration. -/
def execSubu (rd rs rt : RegIdx) (s : State) : Host.Outcome State Fault Refusal :=
  outcomeOf (handleSubu referenceConfig rd rs rt s)

/-- DADDU (R123): the sum of the low dwords mod 2^64 (R120). -/
def handleDaddu (c : Config) (rd rs rt : RegIdx) (s : State) : Result :=
  .ok (s.writeDword c rd (s.readDword rs + s.readDword rt))

/-- DADDU under the reference configuration. -/
def execDaddu (rd rs rt : RegIdx) (s : State) : Host.Outcome State Fault Refusal :=
  outcomeOf (handleDaddu referenceConfig rd rs rt s)

/-- DSUBU (R124): the difference of the low dwords mod 2^64 (R120). -/
def handleDsubu (c : Config) (rd rs rt : RegIdx) (s : State) : Result :=
  .ok (s.writeDword c rd (s.readDword rs - s.readDword rt))

/-- DSUBU under the reference configuration. -/
def execDsubu (rd rs rt : RegIdx) (s : State) : Host.Outcome State Fault Refusal :=
  outcomeOf (handleDsubu referenceConfig rd rs rt s)

end Sys2Proof.Machine
end

