-- ==== Sys2Proof/Machine/Jumps.lean ====
section
/-! DEFINITION. The register-indirect jumps of spec/41_jumps.md (R90 to R94). They write npc only; pc is the driver's (R25), which is what
makes the delay slot (R92). The target is absolute and not checked for alignment (R93). -/

namespace Sys2Proof.Machine

/-- JR (R90): `npc <- x[rs].w`. -/
def handleJr (_c : Config) (rs : RegIdx) (s : State) : Result :=
  .ok (s.setNpc (s.readWord rs))

/-- JR under the reference configuration. -/
def execJr (rs : RegIdx) (s : State) : Host.Outcome State Fault Refusal :=
  outcomeOf (handleJr referenceConfig rs s)

/-- JALR (R91): the target is read first, then `x[rd]` takes the link `pc + 8` mod 2^32, then npc the target. -/
def handleJalr (c : Config) (rd rs : RegIdx) (s : State) : Result :=
  let target := s.readWord rs
  let link := s.pc + 8
  .ok ((s.writeQword c rd (c.linkWrite link)).setNpc target)

/-- JALR under the reference configuration. -/
def execJalr (rd rs : RegIdx) (s : State) : Host.Outcome State Fault Refusal :=
  outcomeOf (handleJalr referenceConfig rd rs s)

end Sys2Proof.Machine
end

