-- ==== Sys2Proof/Machine/Logical.lean ====
section
/-! DEFINITION. Logical operations over 128 bits and set-on-less-than of spec/45_logical_compare.md (R127 to R134). -/

namespace Sys2Proof.Machine

/-- AND (R128): bit by bit over 128 bits. -/
def handleAnd (c : Config) (rd rs rt : RegIdx) (s : State) : Result :=
  .ok (s.writeQword c rd (s.readQword rs &&& s.readQword rt))

/-- AND under the reference configuration. -/
def execAnd (rd rs rt : RegIdx) (s : State) : Host.Outcome State Fault Refusal :=
  outcomeOf (handleAnd referenceConfig rd rs rt s)

/-- OR (R129): bit by bit over 128 bits. -/
def handleOr (c : Config) (rd rs rt : RegIdx) (s : State) : Result :=
  .ok (s.writeQword c rd (s.readQword rs ||| s.readQword rt))

/-- OR under the reference configuration. -/
def execOr (rd rs rt : RegIdx) (s : State) : Host.Outcome State Fault Refusal :=
  outcomeOf (handleOr referenceConfig rd rs rt s)

/-- XOR (R130): bit by bit over 128 bits. -/
def handleXor (c : Config) (rd rs rt : RegIdx) (s : State) : Result :=
  .ok (s.writeQword c rd (s.readQword rs ^^^ s.readQword rt))

/-- XOR under the reference configuration. -/
def execXor (rd rs rt : RegIdx) (s : State) : Host.Outcome State Fault Refusal :=
  outcomeOf (handleXor referenceConfig rd rs rt s)

/-- NOR (R131): the complement of OR over 128 bits. -/
def handleNor (c : Config) (rd rs rt : RegIdx) (s : State) : Result :=
  .ok (s.writeQword c rd (~~~(s.readQword rs ||| s.readQword rt)))

/-- NOR under the reference configuration. -/
def execNor (rd rs rt : RegIdx) (s : State) : Host.Outcome State Fault Refusal :=
  outcomeOf (handleNor referenceConfig rd rs rt s)

/-- SLT (R132): 1 when the signed 64-bit view of `rs` is below that of `rt`, else 0. -/
def handleSlt (c : Config) (rd rs rt : RegIdx) (s : State) : Result :=
  .ok (s.writeQword c rd (boolQword (lessSigned (s.readDword rs) (s.readDword rt))))

/-- SLT under the reference configuration. -/
def execSlt (rd rs rt : RegIdx) (s : State) : Host.Outcome State Fault Refusal :=
  outcomeOf (handleSlt referenceConfig rd rs rt s)

/-- SLTU (R133): 1 when the unsigned 64-bit view of `rs` is below that of `rt`, else 0. -/
def handleSltu (c : Config) (rd rs rt : RegIdx) (s : State) : Result :=
  .ok (s.writeQword c rd (boolQword (lessUnsigned (s.readDword rs) (s.readDword rt))))

/-- SLTU under the reference configuration. -/
def execSltu (rd rs rt : RegIdx) (s : State) : Host.Outcome State Fault Refusal :=
  outcomeOf (handleSltu referenceConfig rd rs rt s)

end Sys2Proof.Machine
end

