-- ==== Sys2Proof/Machine/Moves.lean ====
section
/-! DEFINITION. Conditional moves and special-register transfers of spec/42_moves.md (R95 to R104). SA is opaque storage: no shift consults
it and it is not masked (R104). -/

namespace Sys2Proof.Machine

/-- The qword copy of a conditional move (R95): all 128 bits when the condition holds, no effect otherwise. -/
def moveIf (c : Config) (cond : Bool) (rd rs : RegIdx) (s : State) : Result :=
  .ok (if cond then s.writeQword c rd (s.readQword rs) else s)

/-- MOVZ (R95): copy `x[rs]` when `x[rt]` is zero at the test width (D9). -/
def handleMovz (c : Config) (rd rs rt : RegIdx) (s : State) : Result :=
  moveIf c (testsZero c.movzTestWidth (s.reg rt)) rd rs s

/-- MOVZ under the reference configuration. -/
def execMovz (rd rs rt : RegIdx) (s : State) : Host.Outcome State Fault Refusal :=
  outcomeOf (handleMovz referenceConfig rd rs rt s)

/-- MOVN (R96): copy `x[rs]` when `x[rt]` is not zero at the test width (D9). -/
def handleMovn (c : Config) (rd rs rt : RegIdx) (s : State) : Result :=
  moveIf c (!testsZero c.movzTestWidth (s.reg rt)) rd rs s

/-- MOVN under the reference configuration. -/
def execMovn (rd rs rt : RegIdx) (s : State) : Host.Outcome State Fault Refusal :=
  outcomeOf (handleMovn referenceConfig rd rs rt s)

/-- MFHI (R98): `x[rd] <- HI` at the transfer width (D1). -/
def handleMfhi (c : Config) (rd : RegIdx) (s : State) : Result :=
  .ok (s.writeQword c rd (viewNarrow c.hiloXfer (s.readHi c)))

/-- MFHI under the reference configuration. -/
def execMfhi (rd : RegIdx) (s : State) : Host.Outcome State Fault Refusal :=
  outcomeOf (handleMfhi referenceConfig rd s)

/-- MTHI (R99): `HI <- x[rs]` at the transfer width (D1). -/
def handleMthi (c : Config) (rs : RegIdx) (s : State) : Result :=
  .ok (s.writeHi c (viewNarrow c.hiloXfer (s.reg rs)))

/-- MTHI under the reference configuration. -/
def execMthi (rs : RegIdx) (s : State) : Host.Outcome State Fault Refusal :=
  outcomeOf (handleMthi referenceConfig rs s)

/-- MFLO (R100): `x[rd] <- LO` at the transfer width (D1). -/
def handleMflo (c : Config) (rd : RegIdx) (s : State) : Result :=
  .ok (s.writeQword c rd (viewNarrow c.hiloXfer (s.readLo c)))

/-- MFLO under the reference configuration. -/
def execMflo (rd : RegIdx) (s : State) : Host.Outcome State Fault Refusal :=
  outcomeOf (handleMflo referenceConfig rd s)

/-- MTLO (R101): `LO <- x[rs]` at the transfer width (D1). -/
def handleMtlo (c : Config) (rs : RegIdx) (s : State) : Result :=
  .ok (s.writeLo c (viewNarrow c.hiloXfer (s.reg rs)))

/-- MTLO under the reference configuration. -/
def execMtlo (rs : RegIdx) (s : State) : Host.Outcome State Fault Refusal :=
  outcomeOf (handleMtlo referenceConfig rs s)

/-- MFSA (R102): `x[rd] <-d SA` (D2). -/
def handleMfsa (c : Config) (rd : RegIdx) (s : State) : Result :=
  .ok (s.writeQword c rd (viewNarrow c.saXfer (s.readSa c)))

/-- MFSA under the reference configuration. -/
def execMfsa (rd : RegIdx) (s : State) : Host.Outcome State Fault Refusal :=
  outcomeOf (handleMfsa referenceConfig rd s)

/-- MTSA (R103): `SA <- x[rs].d` (D2). -/
def handleMtsa (c : Config) (rs : RegIdx) (s : State) : Result :=
  .ok (s.writeSa c (viewNarrow c.saXfer (s.reg rs)))

/-- MTSA under the reference configuration. -/
def execMtsa (rs : RegIdx) (s : State) : Host.Outcome State Fault Refusal :=
  outcomeOf (handleMtsa referenceConfig rs s)

end Sys2Proof.Machine
end

