-- ==== Sys2Proof/Machine/MulDiv.lean ====
section
/-! DEFINITION. Multiply and divide of spec/43_muldiv.md (R105 to R114). Multiply reads low words and divide the `DIV_WIDTH` view, which are
low words too in this spec (D5); all write HI and LO and nothing else (R108, R114); none faults. -/

namespace Sys2Proof.Machine

/-- LO takes the low half of a 64-bit product, HI the high half, each sign-extended from its own bit 31, also for MULTU
(R105). -/
def productHiLo (p : Dword) : HiLo where
  hi := sextWord (p.extractLsb' 32 32)
  lo := sextWord (p.extractLsb' 0 32)

/-- LO takes the quotient and HI the remainder, each cut to `DIV_WIDTH` and sign-extended (R109, R110, D5). -/
def quotientHiLo (v : View) (q r : Int) : HiLo where
  hi := viewNarrow v (BitVec.ofInt 128 r)
  lo := viewNarrow v (BitVec.ofInt 128 q)

/-- The least signed integer of a view: -2^31 at the spec's `DIV_WIDTH` (R112). -/
def viewLeast (v : View) : Int := -(2 ^ (v.bits - 1) : Nat)

/-- MULT (R106): `p = (s_32(rs) * s_32(rt)) mod 2^64`. -/
def handleMult (c : Config) (rs rt : RegIdx) (s : State) : Result :=
  let p := BitVec.ofInt 64 ((s.readWord rs).toInt * (s.readWord rt).toInt)
  .ok (s.writeHiLo c (productHiLo p))

/-- MULT under the reference configuration. -/
def execMult (rs rt : RegIdx) (s : State) : Host.Outcome State Fault Refusal :=
  outcomeOf (handleMult referenceConfig rs rt s)

/-- MULTU (R107): `p = u(rs) * u(rt)`. -/
def handleMultu (c : Config) (rs rt : RegIdx) (s : State) : Result :=
  let p := BitVec.ofNat 64 ((s.readWord rs).toNat * (s.readWord rt).toNat)
  .ok (s.writeHiLo c (productHiLo p))

/-- MULTU under the reference configuration. -/
def execMultu (rs rt : RegIdx) (s : State) : Host.Outcome State Fault Refusal :=
  outcomeOf (handleMultu referenceConfig rs rt s)

/-- HI and LO after a signed divide of `a` by `b` at `DIV_WIDTH` (R109, D5): quotient rounded toward zero, remainder with
the sign of the dividend; `DIV0` on a zero divisor (R111, D6) and `DIV_OVF` on the least integer divided by -1 (R112, D7). -/
def divideSigned (c : Config) (a b : Qword) (old : HiLo) : HiLo :=
  let n := viewSigned c.divWidth a
  let d := viewSigned c.divWidth b
  if d = 0 then c.div0 .signed (viewNarrow c.divWidth a) old
  else if n = viewLeast c.divWidth ∧ d = -1 then c.divOvf
  else quotientHiLo c.divWidth (n.tdiv d) (n - n.tdiv d * d)

/-- HI and LO after an unsigned divide of `a` by `b` at `DIV_WIDTH` (R110, D5); `DIV0` on a zero divisor (R111, D6). -/
def divideUnsigned (c : Config) (a b : Qword) (old : HiLo) : HiLo :=
  let n := viewUnsigned c.divWidth a
  let d := viewUnsigned c.divWidth b
  if d = 0 then c.div0 .unsigned (viewNarrow c.divWidth a) old
  else quotientHiLo c.divWidth (n / d : Nat) (n - n / d * d : Nat)

/-- DIV (R109): signed quotient and remainder. -/
def handleDiv (c : Config) (rs rt : RegIdx) (s : State) : Result :=
  .ok (s.writeHiLo c (divideSigned c (s.reg rs) (s.reg rt) (s.readHiLo c)))

/-- DIV under the reference configuration. -/
def execDiv (rs rt : RegIdx) (s : State) : Host.Outcome State Fault Refusal :=
  outcomeOf (handleDiv referenceConfig rs rt s)

/-- DIVU (R110): unsigned quotient and remainder. -/
def handleDivu (c : Config) (rs rt : RegIdx) (s : State) : Result :=
  .ok (s.writeHiLo c (divideUnsigned c (s.reg rs) (s.reg rt) (s.readHiLo c)))

/-- DIVU under the reference configuration. -/
def execDivu (rs rt : RegIdx) (s : State) : Host.Outcome State Fault Refusal :=
  outcomeOf (handleDivu referenceConfig rs rt s)

end Sys2Proof.Machine
end

