-- ==== Sys2Proof/Machine/Shifts.lean ====
section
/-! DEFINITION. The fifteen shifts of spec/40_shifts.md (R70 to R88). The amount is always below the width, so no shift by the width
exists. -/

namespace Sys2Proof.Machine

/-- The common contract of the word shifts (R70): shift the low word of `rt`, write the 32-bit result sign-extended. -/
def wordShift (c : Config) (f : Word → Nat → Word) (rd rt : RegIdx) (n : Nat) (s : State) : Result :=
  .ok (s.writeWord c rd (f (s.readWord rt) n))

/-- The common contract of the doubleword shifts (R77): shift the low dword of `rt`, write the 64-bit result sign-extended. -/
def dwordShift (c : Config) (f : Dword → Nat → Dword) (rd rt : RegIdx) (n : Nat) (s : State) : Result :=
  .ok (s.writeDword c rd (f (s.readDword rt) n))

/-- `(u(t) << n) mod 2^w`: zeros enter at the right. -/
def shiftLeft {w : Nat} (t : BitVec w) (n : Nat) : BitVec w := t <<< n

/-- `u(t) >> n`: zeros enter at the left. -/
def shiftRight {w : Nat} (t : BitVec w) (n : Nat) : BitVec w := t >>> n

/-- `asr_w(t, n)`: copies of the top bit enter at the left (R5). -/
def shiftArith {w : Nat} (t : BitVec w) (n : Nat) : BitVec w := t.sshiftRight n

/-- SLL (R71): `x[rd] <-w (u(x[rt].w) << sa) mod 2^32`. -/
def handleSll (c : Config) (rd rt : RegIdx) (sa : ShAmt) (s : State) : Result :=
  wordShift c shiftLeft rd rt sa.toNat s

/-- SLL under the reference configuration. -/
def execSll (rd rt : RegIdx) (sa : ShAmt) (s : State) : Host.Outcome State Fault Refusal :=
  outcomeOf (handleSll referenceConfig rd rt sa s)

/-- SRL (R72): `x[rd] <-w u(x[rt].w) >> sa`. -/
def handleSrl (c : Config) (rd rt : RegIdx) (sa : ShAmt) (s : State) : Result :=
  wordShift c shiftRight rd rt sa.toNat s

/-- SRL under the reference configuration. -/
def execSrl (rd rt : RegIdx) (sa : ShAmt) (s : State) : Host.Outcome State Fault Refusal :=
  outcomeOf (handleSrl referenceConfig rd rt sa s)

/-- SRA (R73): `x[rd] <-w asr_32(x[rt].w, sa)`. -/
def handleSra (c : Config) (rd rt : RegIdx) (sa : ShAmt) (s : State) : Result :=
  wordShift c shiftArith rd rt sa.toNat s

/-- SRA under the reference configuration. -/
def execSra (rd rt : RegIdx) (sa : ShAmt) (s : State) : Host.Outcome State Fault Refusal :=
  outcomeOf (handleSra referenceConfig rd rt sa s)

/-- SLLV (R74): as SLL by `x[rs][4:0]`. -/
def handleSllv (c : Config) (rd rt rs : RegIdx) (s : State) : Result :=
  wordShift c shiftLeft rd rt (s.shiftAmount5 rs) s

/-- SLLV under the reference configuration. -/
def execSllv (rd rt rs : RegIdx) (s : State) : Host.Outcome State Fault Refusal :=
  outcomeOf (handleSllv referenceConfig rd rt rs s)

/-- SRLV (R75): as SRL by `x[rs][4:0]`. -/
def handleSrlv (c : Config) (rd rt rs : RegIdx) (s : State) : Result :=
  wordShift c shiftRight rd rt (s.shiftAmount5 rs) s

/-- SRLV under the reference configuration. -/
def execSrlv (rd rt rs : RegIdx) (s : State) : Host.Outcome State Fault Refusal :=
  outcomeOf (handleSrlv referenceConfig rd rt rs s)

/-- SRAV (R76): as SRA by `x[rs][4:0]`. -/
def handleSrav (c : Config) (rd rt rs : RegIdx) (s : State) : Result :=
  wordShift c shiftArith rd rt (s.shiftAmount5 rs) s

/-- SRAV under the reference configuration. -/
def execSrav (rd rt rs : RegIdx) (s : State) : Host.Outcome State Fault Refusal :=
  outcomeOf (handleSrav referenceConfig rd rt rs s)

/-- DSLLV (R78): `x[rd] <-d (u(x[rt].d) << x[rs][5:0]) mod 2^64`. -/
def handleDsllv (c : Config) (rd rt rs : RegIdx) (s : State) : Result :=
  dwordShift c shiftLeft rd rt (s.shiftAmount6 rs) s

/-- DSLLV under the reference configuration. -/
def execDsllv (rd rt rs : RegIdx) (s : State) : Host.Outcome State Fault Refusal :=
  outcomeOf (handleDsllv referenceConfig rd rt rs s)

/-- DSRLV (R79): `x[rd] <-d u(x[rt].d) >> x[rs][5:0]`. -/
def handleDsrlv (c : Config) (rd rt rs : RegIdx) (s : State) : Result :=
  dwordShift c shiftRight rd rt (s.shiftAmount6 rs) s

/-- DSRLV under the reference configuration. -/
def execDsrlv (rd rt rs : RegIdx) (s : State) : Host.Outcome State Fault Refusal :=
  outcomeOf (handleDsrlv referenceConfig rd rt rs s)

/-- DSRAV (R80): `x[rd] <-d asr_64(x[rt].d, x[rs][5:0])`. -/
def handleDsrav (c : Config) (rd rt rs : RegIdx) (s : State) : Result :=
  dwordShift c shiftArith rd rt (s.shiftAmount6 rs) s

/-- DSRAV under the reference configuration. -/
def execDsrav (rd rt rs : RegIdx) (s : State) : Host.Outcome State Fault Refusal :=
  outcomeOf (handleDsrav referenceConfig rd rt rs s)

/-- DSLL (R82): by the `sa` field as it stands (R81, D11). -/
def handleDsll (c : Config) (rd rt : RegIdx) (sa : ShAmt) (s : State) : Result :=
  dwordShift c shiftLeft rd rt (c.dshiftPlainAmount sa) s

/-- DSLL under the reference configuration. -/
def execDsll (rd rt : RegIdx) (sa : ShAmt) (s : State) : Host.Outcome State Fault Refusal :=
  outcomeOf (handleDsll referenceConfig rd rt sa s)

/-- DSRL (R83): by the `sa` field as it stands (R81, D11). -/
def handleDsrl (c : Config) (rd rt : RegIdx) (sa : ShAmt) (s : State) : Result :=
  dwordShift c shiftRight rd rt (c.dshiftPlainAmount sa) s

/-- DSRL under the reference configuration. -/
def execDsrl (rd rt : RegIdx) (sa : ShAmt) (s : State) : Host.Outcome State Fault Refusal :=
  outcomeOf (handleDsrl referenceConfig rd rt sa s)

/-- DSRA (R84): by the `sa` field as it stands (R81, D11). -/
def handleDsra (c : Config) (rd rt : RegIdx) (sa : ShAmt) (s : State) : Result :=
  dwordShift c shiftArith rd rt (c.dshiftPlainAmount sa) s

/-- DSRA under the reference configuration. -/
def execDsra (rd rt : RegIdx) (sa : ShAmt) (s : State) : Host.Outcome State Fault Refusal :=
  outcomeOf (handleDsra referenceConfig rd rt sa s)

/-- DSLL32 (R85): by `sa + 32`. -/
def handleDsll32 (c : Config) (rd rt : RegIdx) (sa : ShAmt) (s : State) : Result :=
  dwordShift c shiftLeft rd rt (amountPlus32 sa) s

/-- DSLL32 under the reference configuration. -/
def execDsll32 (rd rt : RegIdx) (sa : ShAmt) (s : State) : Host.Outcome State Fault Refusal :=
  outcomeOf (handleDsll32 referenceConfig rd rt sa s)

/-- DSRL32 (R86): by `sa + 32`. -/
def handleDsrl32 (c : Config) (rd rt : RegIdx) (sa : ShAmt) (s : State) : Result :=
  dwordShift c shiftRight rd rt (amountPlus32 sa) s

/-- DSRL32 under the reference configuration. -/
def execDsrl32 (rd rt : RegIdx) (sa : ShAmt) (s : State) : Host.Outcome State Fault Refusal :=
  outcomeOf (handleDsrl32 referenceConfig rd rt sa s)

/-- DSRA32 (R87): by `sa + 32`. -/
def handleDsra32 (c : Config) (rd rt : RegIdx) (sa : ShAmt) (s : State) : Result :=
  dwordShift c shiftArith rd rt (amountPlus32 sa) s

/-- DSRA32 under the reference configuration. -/
def execDsra32 (rd rt : RegIdx) (sa : ShAmt) (s : State) : Host.Outcome State Fault Refusal :=
  outcomeOf (handleDsra32 referenceConfig rd rt sa s)

end Sys2Proof.Machine
end

