-- ==== Sys2Proof/Machine/Traps.lean ====
section
/-! DEFINITION. Conditional traps, SYSCALL, BREAK and SYNC of spec/46_traps_system.md (R135 to R146). None writes any state; the whole
effect is the outcome. -/

namespace Sys2Proof.Machine

/-- The common contract of the six traps (R135): the Trap fault with the kind and the two register indices when the
condition holds on the views, otherwise no effect. -/
def trapIf (c : Config) (k : TrapKind) (rs rt : RegIdx) (s : State) : Result :=
  if trapHolds c.trapView k (s.reg rs) (s.reg rt) then raiseFault (.trap k rs rt) else .ok s

/-- TGE (R136): signed greater or equal. -/
def handleTge (c : Config) (rs rt : RegIdx) (s : State) : Result :=
  trapIf c .tge rs rt s

/-- TGE under the reference configuration. -/
def execTge (rs rt : RegIdx) (s : State) : Host.Outcome State Fault Refusal :=
  outcomeOf (handleTge referenceConfig rs rt s)

/-- TGEU (R137): unsigned greater or equal. -/
def handleTgeu (c : Config) (rs rt : RegIdx) (s : State) : Result :=
  trapIf c .tgeu rs rt s

/-- TGEU under the reference configuration. -/
def execTgeu (rs rt : RegIdx) (s : State) : Host.Outcome State Fault Refusal :=
  outcomeOf (handleTgeu referenceConfig rs rt s)

/-- TLT (R138): signed less. -/
def handleTlt (c : Config) (rs rt : RegIdx) (s : State) : Result :=
  trapIf c .tlt rs rt s

/-- TLT under the reference configuration. -/
def execTlt (rs rt : RegIdx) (s : State) : Host.Outcome State Fault Refusal :=
  outcomeOf (handleTlt referenceConfig rs rt s)

/-- TLTU (R139): unsigned less. -/
def handleTltu (c : Config) (rs rt : RegIdx) (s : State) : Result :=
  trapIf c .tltu rs rt s

/-- TLTU under the reference configuration. -/
def execTltu (rs rt : RegIdx) (s : State) : Host.Outcome State Fault Refusal :=
  outcomeOf (handleTltu referenceConfig rs rt s)

/-- TEQ (R140): equal views. -/
def handleTeq (c : Config) (rs rt : RegIdx) (s : State) : Result :=
  trapIf c .teq rs rt s

/-- TEQ under the reference configuration. -/
def execTeq (rs rt : RegIdx) (s : State) : Host.Outcome State Fault Refusal :=
  outcomeOf (handleTeq referenceConfig rs rt s)

/-- TNE (R141): unequal views. -/
def handleTne (c : Config) (rs rt : RegIdx) (s : State) : Result :=
  trapIf c .tne rs rt s

/-- TNE under the reference configuration. -/
def execTne (rs rt : RegIdx) (s : State) : Host.Outcome State Fault Refusal :=
  outcomeOf (handleTne referenceConfig rs rt s)

/-- SYSCALL (R142): the Software-Exception fault, always. -/
def handleSyscall (_c : Config) (_s : State) : Result :=
  raiseFault (.softwareException .syscall)

/-- SYSCALL under the reference configuration. -/
def execSyscall (s : State) : Host.Outcome State Fault Refusal :=
  outcomeOf (handleSyscall referenceConfig s)

/-- BREAK (R143): the Software-Exception fault, always. -/
def handleBreak (_c : Config) (_s : State) : Result :=
  raiseFault (.softwareException .brk)

/-- BREAK under the reference configuration. -/
def execBreak (s : State) : Host.Outcome State Fault Refusal :=
  outcomeOf (handleBreak referenceConfig s)

/-- SYNC (R144): no effect: there is nothing to order (R48). -/
def handleSync (_c : Config) (s : State) : Result :=
  .ok s

/-- SYNC under the reference configuration. -/
def execSync (s : State) : Host.Outcome State Fault Refusal :=
  outcomeOf (handleSync referenceConfig s)

end Sys2Proof.Machine
end

