-- ==== Sys2Proof/Machine/Handlers.lean ====
section
/-! DEFINITION. The handler of each instruction under any configuration (spec/00_scope.md R4): what claims that name a parameter quantify
over. `exec` is its reference instance. -/

namespace Sys2Proof.Machine

/-- The one handler an instruction selects (R55), under a configuration. -/
def handle (c : Config) (i : Instr) (s : State) : Result :=
  match i with
  | .sll rd rt sa => handleSll c rd rt sa s
  | .srl rd rt sa => handleSrl c rd rt sa s
  | .sra rd rt sa => handleSra c rd rt sa s
  | .sllv rd rt rs => handleSllv c rd rt rs s
  | .srlv rd rt rs => handleSrlv c rd rt rs s
  | .srav rd rt rs => handleSrav c rd rt rs s
  | .jr rs => handleJr c rs s
  | .jalr rd rs => handleJalr c rd rs s
  | .movz rd rs rt => handleMovz c rd rs rt s
  | .movn rd rs rt => handleMovn c rd rs rt s
  | .syscall => handleSyscall c s
  | .brk => handleBreak c s
  | .sync => handleSync c s
  | .mfhi rd => handleMfhi c rd s
  | .mthi rs => handleMthi c rs s
  | .mflo rd => handleMflo c rd s
  | .mtlo rs => handleMtlo c rs s
  | .dsllv rd rt rs => handleDsllv c rd rt rs s
  | .dsrlv rd rt rs => handleDsrlv c rd rt rs s
  | .dsrav rd rt rs => handleDsrav c rd rt rs s
  | .mult rs rt => handleMult c rs rt s
  | .multu rs rt => handleMultu c rs rt s
  | .div rs rt => handleDiv c rs rt s
  | .divu rs rt => handleDivu c rs rt s
  | .add rd rs rt => handleAdd c rd rs rt s
  | .addu rd rs rt => handleAddu c rd rs rt s
  | .sub rd rs rt => handleSub c rd rs rt s
  | .subu rd rs rt => handleSubu c rd rs rt s
  | .and rd rs rt => handleAnd c rd rs rt s
  | .or rd rs rt => handleOr c rd rs rt s
  | .xor rd rs rt => handleXor c rd rs rt s
  | .nor rd rs rt => handleNor c rd rs rt s
  | .mfsa rd => handleMfsa c rd s
  | .mtsa rs => handleMtsa c rs s
  | .slt rd rs rt => handleSlt c rd rs rt s
  | .sltu rd rs rt => handleSltu c rd rs rt s
  | .dadd rd rs rt => handleDadd c rd rs rt s
  | .daddu rd rs rt => handleDaddu c rd rs rt s
  | .dsub rd rs rt => handleDsub c rd rs rt s
  | .dsubu rd rs rt => handleDsubu c rd rs rt s
  | .tge rs rt => handleTge c rs rt s
  | .tgeu rs rt => handleTgeu c rs rt s
  | .tlt rs rt => handleTlt c rs rt s
  | .tltu rs rt => handleTltu c rs rt s
  | .teq rs rt => handleTeq c rs rt s
  | .tne rs rt => handleTne c rs rt s
  | .dsll rd rt sa => handleDsll c rd rt sa s
  | .dsrl rd rt sa => handleDsrl c rd rt sa s
  | .dsra rd rt sa => handleDsra c rd rt sa s
  | .dsll32 rd rt sa => handleDsll32 c rd rt sa s
  | .dsrl32 rd rt sa => handleDsrl32 c rd rt sa s
  | .dsra32 rd rt sa => handleDsra32 c rd rt sa s

end Sys2Proof.Machine
end

