-- ==== Sys2Proof/Machine/Driver.lean ====
section
/-! DEFINITION. The core's entry point `execute(word)` (spec/10_state.md R31) and the drivers over it: S and T
(spec/70_reset_and_hazards.md R166, R170), each selected by `Config.driver`. The driver is not part of the core. -/

namespace Sys2Proof.Machine

/-- Decode and dispatch, as the handler the word selects or the fault the dispatcher raises (R54, R55). -/
def dispatchWord (c : Config) (w : Word) (s : State) : Result :=
  match decodeWith c.encoding w with
  | .ok i => handle c i s
  | .error r => raiseFault (faultOfReject r)

/-- One call of the core: the state after and the outcome. A fault leaves the state as it was (R31, R32). -/
def execute (c : Config) (w : Word) (s : State) : State × CoreOutcome :=
  match dispatchWord c w s with
  | .ok s' => (s', .ok)
  | .error f => (s, .fault f)

/-- The run policy on the outcome of a call, on the state the driver then holds (R169, R161). -/
def dispose (c : Config) (out : CoreOutcome) (s : State) : DriverOutcome :=
  match out, c.faultDisposition with
  | .ok, _ => .running s
  | .fault f, .halt => .halted f s
  | .fault f, .resume => .resumed f s

/-- Driver S advances before the call: pc takes npc, npc the address after it, mod 2^32 (R166, R176). -/
def State.advance (s : State) : State := (s.setPc s.npc).setNpc (s.npc + 4)

/-- The driver's fetch: refused at a misaligned pc (R166) or where the host loaded no word (U16). -/
def fetchAtPc (c : Config) (s : State) : Except Refusal Word :=
  if s.pc.setWidth 2 ≠ 0 then .error (.misalignedFetch s.pc)
  else
    match fetchWord c.fetchByteOrder s.text s.pc with
    | some w => .ok w
    | none => .error (.unmappedFetch s.pc)

/-- Driver S on a fetched word: advance, then call the core (R166). -/
def driveWordS (c : Config) (w : Word) (s : State) : DriverOutcome :=
  let r := execute c w s.advance
  dispose c r.2 r.1

/-- Driver T on a fetched word: npc moves before the call, pc after it, also when the call faults (R170). -/
def driveWordT (c : Config) (w : Word) (s : State) : DriverOutcome :=
  let r := execute c w (s.setNpc (s.npc + 4))
  dispose c r.2 (r.1.setPc s.npc)

/-- One step of the driver the configuration names: fetch at pc, then run the word (R166, R170). -/
def drive (c : Config) (s : State) : DriverOutcome :=
  match fetchAtPc c s with
  | .error r => .stuck r s
  | .ok w =>
    match c.driver with
    | .s => driveWordS c w s
    | .t => driveWordT c w s

/-- At most `n` steps of the driver, stopping where the run ends (R169). DESIGN CHOICE, unsafe (log 18): under
`FAULT_DISPOSITION` resume the faults the run went past do not stand in its result, only the state it went on to; the spec
gives such a run no result. `drive` reports each of them. The reference driver never resumes. -/
def driveRun (c : Config) : Nat → State → DriverOutcome
  | 0, s => .running s
  | n + 1, s =>
    match drive c s with
    | .running s' => driveRun c n s'
    | .resumed _ s' => driveRun c n s'
    | .halted f s' => .halted f s'
    | .stuck r s' => .stuck r s'

/-- A driver's outcome as the host's outcome of a step: a halt is its fault, a stuck run a refusal. DESIGN CHOICE, unsafe
(log 18): a resumed step is its next state, and its fault is not in the host's outcome, which has no room for both. `step`
never meets that case, since the reference driver halts (R169). -/
def stepOutcome : DriverOutcome → Host.Outcome State Fault Refusal
  | .running s => .next s
  | .resumed _ s => .next s
  | .halted f _ => .fault f
  | .stuck r _ => .refused r

/-- The text with the word of an instruction whose bits are `w` (bit 0 least significant, zero from `nbits` on) at pc. -/
def textWithWord (c : Config) (s : State) (nbits w : Nat) : List Host.Cell :=
  placeWord c.fetchByteOrder s.text s.pc (BitVec.ofNat 32 (w % 2 ^ nbits))

end Sys2Proof.Machine
end

