-- ==== Sys2Proof/Machine/Step.lean ====
section
/-! DEFINITION. One step of the machine: the reference driver over the core (spec/70_reset_and_hazards.md R166). -/

namespace Sys2Proof.Machine

/-- One step of the reference driver S (R166). A fault of the core ends the run (R169); `drive` gives the state it leaves. -/
def step (s : State) : Host.Outcome State Fault Refusal := stepOutcome (drive referenceConfig s)

/-- `s` with the instruction `w` of `nbits` bits stored where `step` fetches its next instruction: at pc. The host's load of
a program into the text (log 1). -/
def State.withFetchWord (s : State) (nbits w : Nat) : State := { s with text := textWithWord referenceConfig s nbits w }

end Sys2Proof.Machine
end

