-- ==== Sys2Proof/Safety.lean ====
section
/-! DEFINITION. The terms claims about the machine are stated in: what an instruction may write (spec/10_state.md R37), frames, canonical
register values (R21), and runs that meet no fault and no stop. -/

namespace Sys2Proof.Machine

/-- A state element an instruction can write (R30). pc is not among them: no instruction writes it (R25). -/
inductive Loc where
  | gpr (i : RegIdx)
  | hi
  | lo
  | sa
  | saUpper
  | npc
  deriving DecidableEq, Repr

/-- What each instruction may write, by the column "writes" of R37; of SA, whatever `SA_WIDTH` is. -/
def writesOf : Instr → List Loc
  | .sll rd _ _ => [.gpr rd]
  | .srl rd _ _ => [.gpr rd]
  | .sra rd _ _ => [.gpr rd]
  | .sllv rd _ _ => [.gpr rd]
  | .srlv rd _ _ => [.gpr rd]
  | .srav rd _ _ => [.gpr rd]
  | .jr _ => [.npc]
  | .jalr rd _ => [.gpr rd, .npc]
  | .movz rd _ _ => [.gpr rd]
  | .movn rd _ _ => [.gpr rd]
  | .syscall => []
  | .brk => []
  | .sync => []
  | .mfhi rd => [.gpr rd]
  | .mthi _ => [.hi]
  | .mflo rd => [.gpr rd]
  | .mtlo _ => [.lo]
  | .dsllv rd _ _ => [.gpr rd]
  | .dsrlv rd _ _ => [.gpr rd]
  | .dsrav rd _ _ => [.gpr rd]
  | .mult _ _ => [.lo, .hi]
  | .multu _ _ => [.lo, .hi]
  | .div _ _ => [.lo, .hi]
  | .divu _ _ => [.lo, .hi]
  | .add rd _ _ => [.gpr rd]
  | .addu rd _ _ => [.gpr rd]
  | .sub rd _ _ => [.gpr rd]
  | .subu rd _ _ => [.gpr rd]
  | .and rd _ _ => [.gpr rd]
  | .or rd _ _ => [.gpr rd]
  | .xor rd _ _ => [.gpr rd]
  | .nor rd _ _ => [.gpr rd]
  | .mfsa rd => [.gpr rd]
  | .mtsa _ => [.sa, .saUpper]
  | .slt rd _ _ => [.gpr rd]
  | .sltu rd _ _ => [.gpr rd]
  | .dadd rd _ _ => [.gpr rd]
  | .daddu rd _ _ => [.gpr rd]
  | .dsub rd _ _ => [.gpr rd]
  | .dsubu rd _ _ => [.gpr rd]
  | .tge _ _ => []
  | .tgeu _ _ => []
  | .tlt _ _ => []
  | .tltu _ _ => []
  | .teq _ _ => []
  | .tne _ _ => []
  | .dsll rd _ _ => [.gpr rd]
  | .dsrl rd _ _ => [.gpr rd]
  | .dsra rd _ _ => [.gpr rd]
  | .dsll32 rd _ _ => [.gpr rd]
  | .dsrl32 rd _ _ => [.gpr rd]
  | .dsra32 rd _ _ => [.gpr rd]

/-- `t` differs from `s` at most in the listed elements: every other register, pc, and every byte of the program text are
as before. -/
def SameExcept (ls : List Loc) (s t : State) : Prop :=
  (∀ j, Loc.gpr j ∉ ls → t.reg j = s.reg j) ∧
  (Loc.hi ∉ ls → t.hi = s.hi) ∧
  (Loc.lo ∉ ls → t.lo = s.lo) ∧
  (Loc.sa ∉ ls → t.sa = s.sa) ∧
  (Loc.saUpper ∉ ls → t.saUpper = s.saUpper) ∧
  (Loc.npc ∉ ls → t.npc = s.npc) ∧
  t.pc = s.pc ∧
  ∀ a, t.byteAt a = s.byteAt a

/-- A 128-bit value that is the sign-extension of its own low word. -/
abbrev WordCanonical (v : Qword) : Prop := sextWord (lowWord v) = v

/-- A 128-bit value that is the sign-extension of its own low dword (R21). -/
abbrev DwordCanonical (v : Qword) : Prop := sextDword (lowDword v) = v

/-- Every general register, HI and LO is dword-canonical: the closure property of R21. -/
abbrev Canonical (s : State) : Prop :=
  (∀ i, DwordCanonical (s.reg i)) ∧ DwordCanonical s.hi ∧ DwordCanonical s.lo

/-- The parameters that produce whole register values produce canonical ones from canonical ones: `DIV0`, `DIV_OVF`,
`LINK_WRITE`, a divide of at most 64 bits, and no MFSA of 128 bits. -/
def KeepsCanonical (c : Config) : Prop :=
  (∀ sg n p, DwordCanonical n → DwordCanonical p.hi → DwordCanonical p.lo →
    DwordCanonical (c.div0 sg n p).hi ∧ DwordCanonical (c.div0 sg n p).lo) ∧
  DwordCanonical c.divOvf.hi ∧ DwordCanonical c.divOvf.lo ∧ (∀ v, DwordCanonical (c.linkWrite v)) ∧
  c.divWidth ≠ .qword ∧ ¬(c.saWidth = .qword ∧ c.saXfer = .qword)

/-- An instruction with its registers renamed. -/
def renameInstr (f : RegIdx → RegIdx) : Instr → Instr
  | .sll rd rt sa => .sll (f rd) (f rt) sa
  | .srl rd rt sa => .srl (f rd) (f rt) sa
  | .sra rd rt sa => .sra (f rd) (f rt) sa
  | .sllv rd rt rs => .sllv (f rd) (f rt) (f rs)
  | .srlv rd rt rs => .srlv (f rd) (f rt) (f rs)
  | .srav rd rt rs => .srav (f rd) (f rt) (f rs)
  | .jr rs => .jr (f rs)
  | .jalr rd rs => .jalr (f rd) (f rs)
  | .movz rd rs rt => .movz (f rd) (f rs) (f rt)
  | .movn rd rs rt => .movn (f rd) (f rs) (f rt)
  | .syscall => .syscall
  | .brk => .brk
  | .sync => .sync
  | .mfhi rd => .mfhi (f rd)
  | .mthi rs => .mthi (f rs)
  | .mflo rd => .mflo (f rd)
  | .mtlo rs => .mtlo (f rs)
  | .dsllv rd rt rs => .dsllv (f rd) (f rt) (f rs)
  | .dsrlv rd rt rs => .dsrlv (f rd) (f rt) (f rs)
  | .dsrav rd rt rs => .dsrav (f rd) (f rt) (f rs)
  | .mult rs rt => .mult (f rs) (f rt)
  | .multu rs rt => .multu (f rs) (f rt)
  | .div rs rt => .div (f rs) (f rt)
  | .divu rs rt => .divu (f rs) (f rt)
  | .add rd rs rt => .add (f rd) (f rs) (f rt)
  | .addu rd rs rt => .addu (f rd) (f rs) (f rt)
  | .sub rd rs rt => .sub (f rd) (f rs) (f rt)
  | .subu rd rs rt => .subu (f rd) (f rs) (f rt)
  | .and rd rs rt => .and (f rd) (f rs) (f rt)
  | .or rd rs rt => .or (f rd) (f rs) (f rt)
  | .xor rd rs rt => .xor (f rd) (f rs) (f rt)
  | .nor rd rs rt => .nor (f rd) (f rs) (f rt)
  | .mfsa rd => .mfsa (f rd)
  | .mtsa rs => .mtsa (f rs)
  | .slt rd rs rt => .slt (f rd) (f rs) (f rt)
  | .sltu rd rs rt => .sltu (f rd) (f rs) (f rt)
  | .dadd rd rs rt => .dadd (f rd) (f rs) (f rt)
  | .daddu rd rs rt => .daddu (f rd) (f rs) (f rt)
  | .dsub rd rs rt => .dsub (f rd) (f rs) (f rt)
  | .dsubu rd rs rt => .dsubu (f rd) (f rs) (f rt)
  | .tge rs rt => .tge (f rs) (f rt)
  | .tgeu rs rt => .tgeu (f rs) (f rt)
  | .tlt rs rt => .tlt (f rs) (f rt)
  | .tltu rs rt => .tltu (f rs) (f rt)
  | .teq rs rt => .teq (f rs) (f rt)
  | .tne rs rt => .tne (f rs) (f rt)
  | .dsll rd rt sa => .dsll (f rd) (f rt) sa
  | .dsrl rd rt sa => .dsrl (f rd) (f rt) sa
  | .dsra rd rt sa => .dsra (f rd) (f rt) sa
  | .dsll32 rd rt sa => .dsll32 (f rd) (f rt) sa
  | .dsrl32 rd rt sa => .dsrl32 (f rd) (f rt) sa
  | .dsra32 rd rt sa => .dsra32 (f rd) (f rt) sa

/-- A fault with the register indices of its payload renamed. -/
def renameFault (f : RegIdx → RegIdx) : Fault → Fault
  | .trap k rs rt => .trap k (f rs) (f rt)
  | .unimplementedOpcode opcode => .unimplementedOpcode opcode
  | .unimplementedFunction funct => .unimplementedFunction funct
  | .arithmeticOverflow op => .arithmeticOverflow op
  | .softwareException k => .softwareException k

/-- A state whose register `i` holds what register `f i` held. -/
def permuteRegs (f : RegIdx → RegIdx) (s : State) : State := { s with gpr := Vector.ofFn fun i => s.reg (f i) }

/-- The instruction is a jump (R90, R91): the only kind that touches npc. -/
def isJump (i : Instr) : Bool := i.op == .jr || i.op == .jalr

/-- The word the reference driver fetches at pc, when it fetches one. -/
def FetchesWord (s : State) (w : Word) : Prop := fetchAtPc referenceConfig s = .ok w

/-- The instruction the reference driver is about to run. -/
def Fetches (s : State) (i : Instr) : Prop := ∃ w, FetchesWord s w ∧ decode w = .ok i

/-- A run of `n` steps from `s` that meets no fault and no stop, and the state it ends in. -/
def RunsTo : Nat → State → State → Prop
  | 0, s, t => s = t
  | n + 1, s, t => ∃ u, step s = .next u ∧ RunsTo n u t

end Sys2Proof.Machine
end

