-- ==== Sys2Proof/Certificates/Slice0/Obligations.lean ====
section
/-! DEFINITION. The obligations of this row: statements for the provers, each from the numbered rules of spec/. Where a docstring names a
decision D<n> and a log entry, the statement rests on a choice of the spec, not on its source. -/

open Sys2Proof Sys2Proof.Machine

/-- After reset every register is zero, pc is 0, npc is 4, and the first word is fetched at address 0. Rules: R36. -/
def Obligations.ResetStateIsAllZeroWithNextPcFour : Prop :=
  (∀ i, State.reset.reg i = 0) ∧ State.reset.hi = 0 ∧ State.reset.lo = 0 ∧ State.reset.sa = 0 ∧
    State.reset.pc = 0x00000000 ∧ State.reset.npc = 0x00000004 ∧
    ∀ (c : Config) (m : List Host.Cell) (w : Word), fetchWord c.fetchByteOrder m 0 = some w →
      fetchAtPc c { State.reset with text := m } = .ok w

/-- The six register accessors: reads take the low bits, writes replace all 128 bits with a sign-extension. Rules: R13, R14, R15, R16, R17, R18. -/
def Obligations.AccessorsReadLowBitsAndWritesReplaceTheRegister : Prop :=
  ∀ (s : State) (i : RegIdx) (v : Word) (d : Dword) (q : Qword),
    (∀ k, k < 32 → (s.readWord i).getLsbD k = (s.reg i).getLsbD k) ∧
    (∀ k, k < 64 → (s.readDword i).getLsbD k = (s.reg i).getLsbD k) ∧
    s.readQword i = s.reg i ∧
    (∀ k, k < 128 → ((s.writeWord referenceConfig i v).reg i).getLsbD k = v.getLsbD (min k 31)) ∧
    (∀ k, k < 128 → ((s.writeDword referenceConfig i d).reg i).getLsbD k = d.getLsbD (min k 63)) ∧
    (s.writeQword referenceConfig i q).reg i = q ∧
    SameExcept [.gpr i] s (s.writeWord referenceConfig i v) ∧
    SameExcept [.gpr i] s (s.writeDword referenceConfig i d) ∧
    SameExcept [.gpr i] s (s.writeQword referenceConfig i q)

/-- A host write reads back by the round-trip table at every width, whenever register 0 is ordinary (HI, LO, SA widths: the spec's D1, D2; log 7, 8). From: 10_state.md R20, 10_state.md R35. -/
def Obligations.HostWritesReadBackAtEveryWidth : Prop :=
  ∀ (c : Config), c.r0Hardwired = false → ∀ (s : State) (i : RegIdx) (v : Word) (d : Dword) (q : Qword),
    ((s.hostWrite c (.gprWord i v)).readWord i = v ∧ (s.hostWrite c (.gprWord i v)).readDword i = v.signExtend 64 ∧
      (s.hostWrite c (.gprWord i v)).readQword i = v.signExtend 128 ∧ SameExcept [.gpr i] s (s.hostWrite c (.gprWord i v))) ∧
    ((s.hostWrite c (.gprDword i d)).readWord i = d.setWidth 32 ∧ (s.hostWrite c (.gprDword i d)).readDword i = d ∧
      (s.hostWrite c (.gprDword i d)).readQword i = d.signExtend 128 ∧ SameExcept [.gpr i] s (s.hostWrite c (.gprDword i d))) ∧
    ((s.hostWrite c (.gprQword i q)).readWord i = q.setWidth 32 ∧ (s.hostWrite c (.gprQword i q)).readDword i = q.setWidth 64 ∧
      (s.hostWrite c (.gprQword i q)).readQword i = q ∧ SameExcept [.gpr i] s (s.hostWrite c (.gprQword i q))) ∧
    ((s.hostWrite c (.hi q)).readHi c = viewNarrow c.hiWidth q ∧ (c.hiWidth = .qword → (s.hostWrite c (.hi q)).hi = q) ∧
      SameExcept [.hi] s (s.hostWrite c (.hi q))) ∧
    ((s.hostWrite c (.lo q)).readLo c = viewNarrow c.loWidth q ∧ (c.loWidth = .qword → (s.hostWrite c (.lo q)).lo = q) ∧
      SameExcept [.lo] s (s.hostWrite c (.lo q))) ∧
    ((s.hostWrite c (.sa q)).readSa c = viewNarrow c.saWidth q ∧ SameExcept [.sa, .saUpper] s (s.hostWrite c (.sa q)) ∧
      (c.saWidth = .dword → (s.hostWrite c (.sa q)).sa = q.setWidth 64 ∧ SameExcept [.sa] s (s.hostWrite c (.sa q)))) ∧
    s.hostWrite c (.pc v) = { s with pc := v } ∧ s.hostWrite c (.npc v) = { s with npc := v }

/-- The decoder takes the six fields by shift and mask, and they partition the 32 bits. Rules: R52. -/
def Obligations.DecoderExtractsTheSixFields : Prop :=
  ∀ w : Word,
    (decodeFields w).opcode.toNat = (w.toNat >>> 26) &&& 0x3F ∧
    (decodeFields w).rs.val = (w.toNat >>> 21) &&& 0x1F ∧
    (decodeFields w).rt.val = (w.toNat >>> 16) &&& 0x1F ∧
    (decodeFields w).rd.val = (w.toNat >>> 11) &&& 0x1F ∧
    (decodeFields w).sa.toNat = (w.toNat >>> 6) &&& 0x1F ∧
    (decodeFields w).funct.toNat = w.toNat &&& 0x3F ∧
    encodeFields (decodeFields w) = w

/-- For any field values there is exactly one word that decodes to them. From: 30_encoding.md R53. -/
def Obligations.EveryFieldTupleHasExactlyOneWord : Prop :=
  ∀ f : Fields, decodeFields (encodeFields f) = f ∧ ∀ w, decodeFields w = f → w = encodeFields f

/-- Decoding the encoding of any instruction gives it back, for every FUNCT_MAP in which each operation appears exactly once. From: 30_encoding.md R53, 30_encoding.md R55, 30_encoding.md R56, 30_encoding.md R57, 30_encoding.md R65. -/
def Obligations.DecodeOfEncodeIsTheInstruction : Prop :=
  (∀ e : Encoding, e.functMap.wellFormed = true → ∀ i : Instr, decodeWith e (encodeWith e i) = .ok i) ∧
    ∀ i : Instr, decode (encode i) = .ok i

/-- Words that agree on opcode, funct and the fields their operation uses decode alike (ignored fields: the spec's D16, log 20; transfers' field: D4, log 6). From: 30_encoding.md R57, 30_encoding.md R55. -/
def Obligations.DecodeDependsOnNamedFieldsAlone : Prop :=
  ∀ (w w' : Word) (i : Instr), decode w = .ok i →
    (decodeFields w').opcode = (decodeFields w).opcode → (decodeFields w').funct = (decodeFields w).funct →
    (i.op.form.usesRs = true → (decodeFields w').rs = (decodeFields w).rs) →
    (i.op.form.usesRt = true → (decodeFields w').rt = (decodeFields w).rt) →
    (i.op.form.usesRd = true → (decodeFields w').rd = (decodeFields w).rd) →
    (i.op.form.usesSa = true → (decodeFields w').sa = (decodeFields w).sa) →
    decode w' = .ok i

/-- Every word is rejected by opcode, rejected by one of twelve funct values, or decodes (the spec's D3 funct codes, D15 payloads; log 5, 19). From: 30_encoding.md R59, 30_encoding.md R60, 30_encoding.md R62. -/
def Obligations.EveryWordHasOneDisposition : Prop :=
  ∀ w : Word,
    ((decodeFields w).opcode ≠ 0 ∧ decode w = .error (.unimplementedOpcode (decodeFields w).opcode)) ∨
    ((decodeFields w).opcode = 0 ∧
      (decodeFields w).funct ∈ ([0x01, 0x05, 0x0E, 0x15, 0x1C, 0x1D, 0x1E, 0x1F, 0x35, 0x37, 0x39, 0x3D] : List Code6) ∧
      decode w = .error (.unimplementedFunction (decodeFields w).funct)) ∨
    ((decodeFields w).opcode = 0 ∧
      (decodeFields w).funct ∉ ([0x01, 0x05, 0x0E, 0x15, 0x1C, 0x1D, 0x1E, 0x1F, 0x35, 0x37, 0x39, 0x3D] : List Code6) ∧
      ∃ i, decode w = .ok i ∧ ((decodeFields w).funct, i.op) ∈ standardFunctMap)

/-- Words written out bit by bit decode as encoded (the spec's D3 funct codes, log 5; D4 transfers' field, 6; D16 ignored bits, 20; D15 reject payload, 19). From: 30_encoding.md R51, 30_encoding.md R54, 30_encoding.md R56, 30_encoding.md R57, 30_encoding.md R60, 60_exceptions.md R148. -/
def Obligations.WrittenOutWordsDecodeToTheirInstructions : Prop :=
  decode 0b000000_00000_00010_00011_00100_000000#32 = .ok (.sll 3 2 4) ∧
    decode 0b000000_00001_00010_00011_00000_010111#32 = .ok (.dsrav 3 2 1) ∧
    decode 0b000000_00001_00000_11111_00000_001001#32 = .ok (.jalr 31 1) ∧
    decode 0b000000_00001_00010_00011_00000_001011#32 = .ok (.movn 3 1 2) ∧
    decode 0b000000_11111_11111_00011_11111_010000#32 = .ok (.mfhi 3) ∧
    decode 0b000000_00001_00000_00000_00000_101001#32 = .ok (.mtsa 1) ∧
    decode 0b000000_00001_00010_00101_00111_011000#32 = .ok (.mult 1 2) ∧
    decode 0b000000_00001_00010_00011_00000_101110#32 = .ok (.dsub 3 1 2) ∧
    decode 0b000000_00001_00010_00011_00000_101011#32 = .ok (.sltu 3 1 2) ∧
    decode 0b000000_00001_00010_11111_11111_110100#32 = .ok (.teq 1 2) ∧
    decode 0b000000_11111_11111_11111_11111_001100#32 = .ok .syscall ∧
    decode 0b001001_00000_00001_00000_00000_000001#32 = .error (.unimplementedOpcode 0x09)

/-- Dispatch: a non-SPECIAL opcode faults first, then an unassigned funct, else the one handler runs (payloads: D15, log 19). From: 30_encoding.md R54, 30_encoding.md R55, 60_exceptions.md R148, 60_exceptions.md R149, 60_exceptions.md R155. -/
def Obligations.DispatchSelectsByOpcodeThenFunct : Prop :=
  ∀ (c : Config) (w : Word) (s : State),
    ((decodeFields w).opcode ≠ 0 → execute c w s = (s, .fault (.unimplementedOpcode (decodeFields w).opcode))) ∧
    ((decodeFields w).opcode = 0 → opOfFunct c.encoding.functMap (decodeFields w).funct = none →
      execute c w s = (s, .fault (.unimplementedFunction (decodeFields w).funct))) ∧
    ∀ op, (decodeFields w).opcode = 0 → opOfFunct c.encoding.functMap (decodeFields w).funct = some op →
      dispatchWord c w s = handle c (instrOfFields c.encoding (decodeFields w) op) s

/-- A step at an aligned pc runs the decoded instruction after driver S has advanced the counters (D13, log 17). From: 70_reset_and_hazards.md R166, 70_reset_and_hazards.md R167. -/
def Obligations.StepRunsTheDecodedInstruction : Prop :=
  ∀ (s : State) (w : Word) (i : Instr), s.pc.toNat % 4 = 0 →
    fetchWord referenceConfig.fetchByteOrder s.text s.pc = some w → decode w = .ok i →
    step s = exec i { s with pc := s.npc, npc := s.npc + 4 }

/-- A step refuses exactly at a misaligned pc or an unloaded word, faults exactly on a rejected word or where the handler faults (log 2, 4, 17, 18, 19). From: 70_reset_and_hazards.md R166, 20_memory.md R44, 93_implementation_defined.md U16, 60_exceptions.md R148, 60_exceptions.md R149. -/
def Obligations.StepStopsExactlyWhereDriverDispatcherOrHandlerStops : Prop :=
  ∀ s : State,
    (s.pc.toNat % 4 ≠ 0 → step s = .refused (.misalignedFetch s.pc)) ∧
    (s.pc.toNat % 4 = 0 → fetchWord referenceConfig.fetchByteOrder s.text s.pc = none →
      step s = .refused (.unmappedFetch s.pc)) ∧
    (∀ w opcode, s.pc.toNat % 4 = 0 → fetchWord referenceConfig.fetchByteOrder s.text s.pc = some w →
      decode w = .error (.unimplementedOpcode opcode) → step s = .fault (.unimplementedOpcode opcode)) ∧
    (∀ w funct, s.pc.toNat % 4 = 0 → fetchWord referenceConfig.fetchByteOrder s.text s.pc = some w →
      decode w = .error (.unimplementedFunction funct) → step s = .fault (.unimplementedFunction funct)) ∧
    (∀ r, step s = .refused r → (s.pc.toNat % 4 ≠ 0 ∧ r = .misalignedFetch s.pc) ∨
      (s.pc.toNat % 4 = 0 ∧ fetchWord referenceConfig.fetchByteOrder s.text s.pc = none ∧ r = .unmappedFetch s.pc)) ∧
    ∀ f, step s = .fault f ↔ ∃ w, s.pc.toNat % 4 = 0 ∧ fetchWord referenceConfig.fetchByteOrder s.text s.pc = some w ∧
      ((∃ r, decode w = .error r ∧ f = faultOfReject r) ∨
       ∃ i, decode w = .ok i ∧ exec i { s with pc := s.npc, npc := s.npc + 4 } = .fault f)

/-- A word placed in the text is fetched back in either byte order; other bytes and the canonical form are kept (all three the model's own, log 1, 2). From: 20_memory.md R41, 20_memory.md R43. -/
def Obligations.PlacedWordIsFetchedBackInEitherByteOrder : Prop :=
  ∀ (o : ByteOrder) (m : List Host.Cell) (a w : Word), a.toNat % 4 = 0 →
    fetchWord o (placeWord o m a w) a = some w ∧
    (∀ b, (b < a.toNat ∨ a.toNat + 4 ≤ b) → readByte (placeWord o m a w) b = readByte m b) ∧
    (Memory.wf m = true → Memory.wf (placeWord o m a w) = true)

/-- An instruction placed by its word at an aligned pc is what the next step runs (placing: the model's, log 1; advance: the spec's D13, log 17). From: 70_reset_and_hazards.md R166, 30_encoding.md R65. -/
def Obligations.PlacedInstructionIsTheNextStep : Prop :=
  ∀ (s : State) (i : Instr), s.pc.toNat % 4 = 0 →
    step (s.withFetchWord 32 (encode i).toNat) = exec i (s.withFetchWord 32 (encode i).toNat).advance

/-- SLL, SRL, SRA, SLLV, SRLV, SRAV complete: 32-bit shift of the low word of rt, result sign-extended to 128 bits. Rules: R70. -/
def Obligations.WordShiftsShiftTheLowWordAndSignExtend : Prop :=
  ∀ (s : State) (rd rt rs : RegIdx) (sa : ShAmt),
    (∃ t, exec (.sll rd rt sa) s = .next t ∧ (t.readWord rd).toNat = ((s.readWord rt).toNat * 2 ^ sa.toNat) % 2 ^ 32 ∧ WordCanonical (t.reg rd) ∧ SameExcept [.gpr rd] s t) ∧
    (∃ t, exec (.srl rd rt sa) s = .next t ∧ (t.readWord rd).toNat = (s.readWord rt).toNat / 2 ^ sa.toNat ∧ WordCanonical (t.reg rd) ∧ SameExcept [.gpr rd] s t) ∧
    (∃ t, exec (.sra rd rt sa) s = .next t ∧ (t.reg rd).toInt = (s.readWord rt).toInt / 2 ^ sa.toNat ∧ SameExcept [.gpr rd] s t) ∧
    (∃ t, exec (.sllv rd rt rs) s = .next t ∧ (t.readWord rd).toNat = ((s.readWord rt).toNat * 2 ^ ((s.reg rs).toNat % 32)) % 2 ^ 32 ∧ WordCanonical (t.reg rd) ∧ SameExcept [.gpr rd] s t) ∧
    (∃ t, exec (.srlv rd rt rs) s = .next t ∧ (t.readWord rd).toNat = (s.readWord rt).toNat / 2 ^ ((s.reg rs).toNat % 32) ∧ WordCanonical (t.reg rd) ∧ SameExcept [.gpr rd] s t) ∧
    (∃ t, exec (.srav rd rt rs) s = .next t ∧ (t.reg rd).toInt = (s.readWord rt).toInt / 2 ^ ((s.reg rs).toNat % 32) ∧ SameExcept [.gpr rd] s t)

/-- The nine doubleword shifts complete: 64-bit shift of the low dword of rt, sign-extended (plain amount: the spec's D11, log 16). From: 40_shifts.md R77, 40_shifts.md R81. -/
def Obligations.DwordShiftsShiftTheLowDwordAndSignExtend : Prop :=
  ∀ (s : State) (rd rt rs : RegIdx) (sa : ShAmt),
    (∃ t, exec (.dsllv rd rt rs) s = .next t ∧ (t.readDword rd).toNat = ((s.readDword rt).toNat * 2 ^ ((s.reg rs).toNat % 64)) % 2 ^ 64 ∧ DwordCanonical (t.reg rd) ∧ SameExcept [.gpr rd] s t) ∧
    (∃ t, exec (.dsrlv rd rt rs) s = .next t ∧ (t.readDword rd).toNat = (s.readDword rt).toNat / 2 ^ ((s.reg rs).toNat % 64) ∧ DwordCanonical (t.reg rd) ∧ SameExcept [.gpr rd] s t) ∧
    (∃ t, exec (.dsrav rd rt rs) s = .next t ∧ (t.reg rd).toInt = (s.readDword rt).toInt / 2 ^ ((s.reg rs).toNat % 64) ∧ SameExcept [.gpr rd] s t) ∧
    (∃ t, exec (.dsll rd rt sa) s = .next t ∧ (t.readDword rd).toNat = ((s.readDword rt).toNat * 2 ^ sa.toNat) % 2 ^ 64 ∧ DwordCanonical (t.reg rd) ∧ SameExcept [.gpr rd] s t) ∧
    (∃ t, exec (.dsrl rd rt sa) s = .next t ∧ (t.readDword rd).toNat = (s.readDword rt).toNat / 2 ^ sa.toNat ∧ DwordCanonical (t.reg rd) ∧ SameExcept [.gpr rd] s t) ∧
    (∃ t, exec (.dsra rd rt sa) s = .next t ∧ (t.reg rd).toInt = (s.readDword rt).toInt / 2 ^ sa.toNat ∧ SameExcept [.gpr rd] s t) ∧
    (∃ t, exec (.dsll32 rd rt sa) s = .next t ∧ (t.readDword rd).toNat = ((s.readDword rt).toNat * 2 ^ (sa.toNat + 32)) % 2 ^ 64 ∧ DwordCanonical (t.reg rd) ∧ SameExcept [.gpr rd] s t) ∧
    (∃ t, exec (.dsrl32 rd rt sa) s = .next t ∧ (t.readDword rd).toNat = (s.readDword rt).toNat / 2 ^ (sa.toNat + 32) ∧ DwordCanonical (t.reg rd) ∧ SameExcept [.gpr rd] s t) ∧
    (∃ t, exec (.dsra32 rd rt sa) s = .next t ∧ (t.reg rd).toInt = (s.readDword rt).toInt / 2 ^ (sa.toNat + 32) ∧ SameExcept [.gpr rd] s t)

/-- A variable shift by k is the fixed one: SLLV as SLL, DSLLV as DSLL below 32, as DSLL32 from 32 on (plain amount: the spec's D11, log 16). From: 40_shifts.md R88. -/
def Obligations.VariableShiftsAgreeWithFixedShifts : Prop :=
  ∀ (s : State) (rd rt rs : RegIdx) (k : ShAmt),
    ((s.reg rs).toNat % 32 = k.toNat →
      exec (.sllv rd rt rs) s = exec (.sll rd rt k) s ∧ exec (.srlv rd rt rs) s = exec (.srl rd rt k) s ∧
      exec (.srav rd rt rs) s = exec (.sra rd rt k) s) ∧
    ((s.reg rs).toNat % 64 = k.toNat →
      exec (.dsllv rd rt rs) s = exec (.dsll rd rt k) s ∧ exec (.dsrlv rd rt rs) s = exec (.dsrl rd rt k) s ∧
      exec (.dsrav rd rt rs) s = exec (.dsra rd rt k) s) ∧
    ((s.reg rs).toNat % 64 = k.toNat + 32 →
      exec (.dsllv rd rt rs) s = exec (.dsll32 rd rt k) s ∧ exec (.dsrlv rd rt rs) s = exec (.dsrl32 rd rt k) s ∧
      exec (.dsrav rd rt rs) s = exec (.dsra32 rd rt k) s)

/-- JR completes, whatever the target alignment: npc takes the low word of rs and nothing else changes. From: 41_jumps.md R90, 41_jumps.md R93. -/
def Obligations.JumpRegisterWritesNextPcOnly : Prop :=
  ∀ (s : State) (rs : RegIdx), ∃ t, exec (.jr rs) s = .next t ∧ t.npc.toNat = (s.reg rs).toNat % 2 ^ 32 ∧ SameExcept [.npc] s t

/-- JALR completes: npc takes the old low word of rs, rd the link pc + 8 mod 2^32, sign-extended (the spec's D10, log 15). From: 41_jumps.md R91, 10_state.md R33, 10_state.md R39. -/
def Obligations.JumpAndLinkReadsTargetBeforeWritingLink : Prop :=
  ∀ (s : State) (rd rs : RegIdx), ∃ t, exec (.jalr rd rs) s = .next t ∧ t.npc.toNat = (s.reg rs).toNat % 2 ^ 32 ∧
    (t.readWord rd).toNat = (s.pc.toNat + 8) % 2 ^ 32 ∧ WordCanonical (t.reg rd) ∧ SameExcept [.gpr rd, .npc] s t

/-- MOVZ and MOVN complete: copy all 128 bits of rs when rt is zero (MOVN: not zero), else no effect (zero test at 128 bits: D9, log 14). From: 42_moves.md R95, 42_moves.md R96. -/
def Obligations.ConditionalMovesCopyAllBitsOrNothing : Prop :=
  ∀ (s : State) (rd rs rt : RegIdx),
    (s.reg rt = 0 → ∃ t, exec (.movz rd rs rt) s = .next t ∧ t.reg rd = s.reg rs ∧ SameExcept [.gpr rd] s t) ∧
    (s.reg rt ≠ 0 → exec (.movz rd rs rt) s = .next s) ∧
    (s.reg rt ≠ 0 → ∃ t, exec (.movn rd rs rt) s = .next t ∧ t.reg rd = s.reg rs ∧ SameExcept [.gpr rd] s t) ∧
    (s.reg rt = 0 → exec (.movn rd rs rt) s = .next s)

/-- MFHI, MTHI, MFLO, MTLO complete: a 128-bit copy and no other effect (width: the spec's D1, field: D4; log 7, 6). From: 42_moves.md R97, 42_moves.md R98, 42_moves.md R99, 42_moves.md R100, 42_moves.md R101. -/
def Obligations.HiLoTransfersCopyAllBits : Prop :=
  ∀ (s : State) (r : RegIdx),
    (∃ t, exec (.mfhi r) s = .next t ∧ t.reg r = s.hi ∧ SameExcept [.gpr r] s t) ∧
    (∃ t, exec (.mthi r) s = .next t ∧ t.hi = s.reg r ∧ SameExcept [.hi] s t) ∧
    (∃ t, exec (.mflo r) s = .next t ∧ t.reg r = s.lo ∧ SameExcept [.gpr r] s t) ∧
    (∃ t, exec (.mtlo r) s = .next t ∧ t.lo = s.reg r ∧ SameExcept [.lo] s t)

/-- MFSA and MTSA complete: SA takes the low 64 bits of rs unmasked, rd takes SA sign-extended (the spec's D2, D27; log 8). From: 42_moves.md R102, 42_moves.md R103, 42_moves.md R104. -/
def Obligations.SaTransfersCopySixtyFourBits : Prop :=
  ∀ (s : State) (r : RegIdx),
    (∃ t, exec (.mtsa r) s = .next t ∧ t.sa.toNat = (s.reg r).toNat % 2 ^ 64 ∧ SameExcept [.sa] s t) ∧
    (∃ t, exec (.mfsa r) s = .next t ∧ (t.reg r).toInt = s.sa.toInt ∧ SameExcept [.gpr r] s t)

/-- MTSA rs then MFSA rd puts the sign-extended low dword of rs in rd (the spec's D2, log 8). From: 42_moves.md R103. -/
def Obligations.SaRoundTripSignExtendsTheDword : Prop :=
  ∀ (s : State) (rd rs : RegIdx), ∃ t u, exec (.mtsa rs) s = .next t ∧ exec (.mfsa rd) t = .next u ∧
    (u.reg rd).toInt = (s.readDword rs).toInt ∧ SameExcept [.gpr rd, .sa] s u

/-- MULT, MULTU complete: HI, LO hold the product's halves, each sign-extended (no general register: the spec's D23, log 25; width: D1, log 7). From: 43_muldiv.md R105, 43_muldiv.md R106, 43_muldiv.md R107, 43_muldiv.md R108. -/
def Obligations.MultiplyPutsTheExactProductInHiLo : Prop :=
  ∀ (s : State) (rs rt : RegIdx),
    (∃ t, exec (.mult rs rt) s = .next t ∧
      (lowWord t.hi).toInt * 2 ^ 32 + ((lowWord t.lo).toNat : Int) = (s.readWord rs).toInt * (s.readWord rt).toInt ∧
      WordCanonical t.hi ∧ WordCanonical t.lo ∧ SameExcept [.lo, .hi] s t) ∧
    (∃ t, exec (.multu rs rt) s = .next t ∧
      (lowWord t.hi).toNat * 2 ^ 32 + (lowWord t.lo).toNat = (s.readWord rs).toNat * (s.readWord rt).toNat ∧
      WordCanonical t.hi ∧ WordCanonical t.lo ∧ SameExcept [.lo, .hi] s t)

/-- DIV completes: n = q*d + r with |r| < |d| and the signs of truncation, outside a zero divisor and -2^31 / -1 (widths: D5, log 12). From: 43_muldiv.md R109, 43_muldiv.md R113. -/
def Obligations.DivideTruncatesTowardZero : Prop :=
  ∀ (s : State) (rs rt : RegIdx), (s.readWord rt).toInt ≠ 0 →
    ¬((s.readWord rs).toInt = -2147483648 ∧ (s.readWord rt).toInt = -1) →
    ∃ t, exec (.div rs rt) s = .next t ∧
      (s.readWord rs).toInt = (lowWord t.lo).toInt * (s.readWord rt).toInt + (lowWord t.hi).toInt ∧
      (lowWord t.hi).toInt.natAbs < (s.readWord rt).toInt.natAbs ∧
      ((lowWord t.hi).toInt = 0 ∨ 0 < (lowWord t.hi).toInt * (s.readWord rs).toInt) ∧
      ((lowWord t.lo).toInt = 0 ∨ 0 < (lowWord t.lo).toInt * ((s.readWord rs).toInt * (s.readWord rt).toInt)) ∧
      WordCanonical t.hi ∧ WordCanonical t.lo ∧ SameExcept [.lo, .hi] s t

/-- DIVU completes: n = q*d + r with r < d, for every non-zero divisor (widths: D5, log 12). From: 43_muldiv.md R110, 43_muldiv.md R113. -/
def Obligations.DivideUnsignedGivesQuotientAndRemainder : Prop :=
  ∀ (s : State) (rs rt : RegIdx), (s.readWord rt).toNat ≠ 0 →
    ∃ t, exec (.divu rs rt) s = .next t ∧
      (s.readWord rs).toNat = (lowWord t.lo).toNat * (s.readWord rt).toNat + (lowWord t.hi).toNat ∧
      (lowWord t.hi).toNat < (s.readWord rt).toNat ∧
      WordCanonical t.hi ∧ WordCanonical t.lo ∧ SameExcept [.lo, .hi] s t

/-- DIV and DIVU by zero complete with the fill values: the spec's own choice D6 of DIV0 (log 10). From: 43_muldiv.md R111. -/
def Obligations.DivideByZeroFillsUnderTheDefaultPolicy : Prop :=
  ∀ (s : State) (rs rt : RegIdx), s.readWord rt = 0 →
    (∃ t, exec (.div rs rt) s = .next t ∧
      t.lo = (if (s.readWord rs).toInt < 0 then 1 else 0xFFFFFFFFFFFFFFFFFFFFFFFFFFFFFFFF) ∧
      t.hi.toInt = (s.readWord rs).toInt ∧ SameExcept [.lo, .hi] s t) ∧
    (∃ t, exec (.divu rs rt) s = .next t ∧ t.lo = 0xFFFFFFFFFFFFFFFFFFFFFFFFFFFFFFFF ∧
      t.hi.toInt = (s.readWord rs).toInt ∧ SameExcept [.lo, .hi] s t)

/-- A zero divisor gives DIV0, nothing else of any instruction depends on DIV0, the no-op DIV0 leaves the state alone (the spec's D6, log 10; D5, log 12). From: 43_muldiv.md R111, 43_muldiv.md R114. -/
def Obligations.DivideByZeroIsExactlyTheParameter : Prop :=
  ∀ (c : Config) (f : Signedness → Qword → HiLo → HiLo) (s : State) (rs rt : RegIdx),
    (viewUnsigned c.divWidth (s.reg rt) = 0 →
      handle c (.div rs rt) s = .ok (s.writeHiLo c (c.div0 .signed (viewNarrow c.divWidth (s.reg rs)) (s.readHiLo c))) ∧
      handle c (.divu rs rt) s = .ok (s.writeHiLo c (c.div0 .unsigned (viewNarrow c.divWidth (s.reg rs)) (s.readHiLo c))) ∧
      (c.hiWidth = .qword → c.loWidth = .qword →
        handle { c with div0 := div0Noop } (.div rs rt) s = .ok s ∧
        handle { c with div0 := div0Noop } (.divu rs rt) s = .ok s)) ∧
    (c.divWidth = .word → (viewUnsigned c.divWidth (s.reg rt) = 0 ↔ s.readWord rt = 0) ∧
      viewNarrow c.divWidth (s.reg rs) = sextWord (s.readWord rs)) ∧
    (viewUnsigned c.divWidth (s.reg rt) ≠ 0 →
      handle { c with div0 := f } (.div rs rt) s = handle c (.div rs rt) s ∧
      handle { c with div0 := f } (.divu rs rt) s = handle c (.divu rs rt) s) ∧
    ∀ i : Instr, (∀ a b, i ≠ .div a b ∧ i ≠ .divu a b) → handle { c with div0 := f } i s = handle c i s

/-- DIV of -2^31 by -1 completes with LO = -2^31 and HI = 0: the spec's own choice D7 (log 11). From: 43_muldiv.md R112. -/
def Obligations.DivideOverflowWrapsTheQuotient : Prop :=
  ∀ (s : State) (rs rt : RegIdx), s.readWord rs = 0x80000000 → s.readWord rt = 0xFFFFFFFF →
    ∃ t, exec (.div rs rt) s = .next t ∧ t.lo.toInt = -2147483648 ∧ t.hi = 0 ∧ SameExcept [.lo, .hi] s t

/-- ADD, SUB, DADD, DSUB complete with the exact signed result when it fits, and otherwise fault naming the operation with nothing written. Rules: R115. -/
def Obligations.TrappingAddSubCompleteExactlyWhenTheResultFits : Prop :=
  ∀ (s : State) (rd rs rt : RegIdx),
    ((-2147483648 ≤ (s.readWord rs).toInt + (s.readWord rt).toInt ∧ (s.readWord rs).toInt + (s.readWord rt).toInt ≤ 2147483647 →
      ∃ t, exec (.add rd rs rt) s = .next t ∧ (t.reg rd).toInt = (s.readWord rs).toInt + (s.readWord rt).toInt ∧ SameExcept [.gpr rd] s t) ∧
     (¬(-2147483648 ≤ (s.readWord rs).toInt + (s.readWord rt).toInt ∧ (s.readWord rs).toInt + (s.readWord rt).toInt ≤ 2147483647) → exec (.add rd rs rt) s = .fault (.arithmeticOverflow .add))) ∧
    ((-2147483648 ≤ (s.readWord rs).toInt - (s.readWord rt).toInt ∧ (s.readWord rs).toInt - (s.readWord rt).toInt ≤ 2147483647 →
      ∃ t, exec (.sub rd rs rt) s = .next t ∧ (t.reg rd).toInt = (s.readWord rs).toInt - (s.readWord rt).toInt ∧ SameExcept [.gpr rd] s t) ∧
     (¬(-2147483648 ≤ (s.readWord rs).toInt - (s.readWord rt).toInt ∧ (s.readWord rs).toInt - (s.readWord rt).toInt ≤ 2147483647) → exec (.sub rd rs rt) s = .fault (.arithmeticOverflow .sub))) ∧
    ((-9223372036854775808 ≤ (s.readDword rs).toInt + (s.readDword rt).toInt ∧ (s.readDword rs).toInt + (s.readDword rt).toInt ≤ 9223372036854775807 →
      ∃ t, exec (.dadd rd rs rt) s = .next t ∧ (t.reg rd).toInt = (s.readDword rs).toInt + (s.readDword rt).toInt ∧ SameExcept [.gpr rd] s t) ∧
     (¬(-9223372036854775808 ≤ (s.readDword rs).toInt + (s.readDword rt).toInt ∧ (s.readDword rs).toInt + (s.readDword rt).toInt ≤ 9223372036854775807) → exec (.dadd rd rs rt) s = .fault (.arithmeticOverflow .dadd))) ∧
    ((-9223372036854775808 ≤ (s.readDword rs).toInt - (s.readDword rt).toInt ∧ (s.readDword rs).toInt - (s.readDword rt).toInt ≤ 9223372036854775807 →
      ∃ t, exec (.dsub rd rs rt) s = .next t ∧ (t.reg rd).toInt = (s.readDword rs).toInt - (s.readDword rt).toInt ∧ SameExcept [.gpr rd] s t) ∧
     (¬(-9223372036854775808 ≤ (s.readDword rs).toInt - (s.readDword rt).toInt ∧ (s.readDword rs).toInt - (s.readDword rt).toInt ≤ 9223372036854775807) → exec (.dsub rd rs rt) s = .fault (.arithmeticOverflow .dsub)))

/-- Signed overflow of add and subtract in bit form is the range test, at 32 and 64 bits. From: 44_addsub.md R125. -/
def Obligations.OverflowPredicatesAgreeWithBitForm : Prop :=
  (∀ a b : Word, (addOverflows a b = true ↔ a.msb = b.msb ∧ (a + b).msb ≠ a.msb) ∧
      (subOverflows a b = true ↔ a.msb ≠ b.msb ∧ (a - b).msb ≠ a.msb)) ∧
    (∀ a b : Dword, (addOverflows a b = true ↔ a.msb = b.msb ∧ (a + b).msb ≠ a.msb) ∧
      (subOverflows a b = true ↔ a.msb ≠ b.msb ∧ (a - b).msb ≠ a.msb))

/-- ADDU, SUBU, DADDU, DSUBU always complete with the result mod 2^32 or 2^64, sign-extended. Rules: R120. -/
def Obligations.WrappingAddSubCompleteModuloTheWidth : Prop :=
  ∀ (s : State) (rd rs rt : RegIdx),
    (∃ t, exec (.addu rd rs rt) s = .next t ∧ ((t.readWord rd).toNat : Int) = (((s.readWord rs).toNat : Int) + ((s.readWord rt).toNat : Int)) % 2 ^ 32 ∧
      WordCanonical (t.reg rd) ∧ SameExcept [.gpr rd] s t) ∧
    (∃ t, exec (.subu rd rs rt) s = .next t ∧ ((t.readWord rd).toNat : Int) = (((s.readWord rs).toNat : Int) - ((s.readWord rt).toNat : Int)) % 2 ^ 32 ∧
      WordCanonical (t.reg rd) ∧ SameExcept [.gpr rd] s t) ∧
    (∃ t, exec (.daddu rd rs rt) s = .next t ∧ ((t.readDword rd).toNat : Int) = (((s.readDword rs).toNat : Int) + ((s.readDword rt).toNat : Int)) % 2 ^ 64 ∧
      DwordCanonical (t.reg rd) ∧ SameExcept [.gpr rd] s t) ∧
    (∃ t, exec (.dsubu rd rs rt) s = .next t ∧ ((t.readDword rd).toNat : Int) = (((s.readDword rs).toNat : Int) - ((s.readDword rt).toNat : Int)) % 2 ^ 64 ∧
      DwordCanonical (t.reg rd) ∧ SameExcept [.gpr rd] s t) ∧
    (∀ t, exec (.add rd rs rt) s = .next t → exec (.addu rd rs rt) s = .next t) ∧
    (∀ t, exec (.sub rd rs rt) s = .next t → exec (.subu rd rs rt) s = .next t) ∧
    (∀ t, exec (.dadd rd rs rt) s = .next t → exec (.daddu rd rs rt) s = .next t) ∧
    (∀ t, exec (.dsub rd rs rt) s = .next t → exec (.dsubu rd rs rt) s = .next t)

/-- AND, OR, XOR, NOR complete: each of the 128 bits by itself, verbatim, nothing else changed. From: 45_logical_compare.md R127. -/
def Obligations.LogicalOperationsActOnAllBits : Prop :=
  ∀ (s : State) (rd rs rt : RegIdx),
    (∃ t, exec (.and rd rs rt) s = .next t ∧ (∀ k, k < 128 → (t.reg rd).getLsbD k = ((s.reg rs).getLsbD k && (s.reg rt).getLsbD k)) ∧
      SameExcept [.gpr rd] s t) ∧
    (∃ t, exec (.or rd rs rt) s = .next t ∧ (∀ k, k < 128 → (t.reg rd).getLsbD k = ((s.reg rs).getLsbD k || (s.reg rt).getLsbD k)) ∧
      SameExcept [.gpr rd] s t) ∧
    (∃ t, exec (.xor rd rs rt) s = .next t ∧ (∀ k, k < 128 → (t.reg rd).getLsbD k = ((s.reg rs).getLsbD k ^^ (s.reg rt).getLsbD k)) ∧
      SameExcept [.gpr rd] s t) ∧
    (∃ t, exec (.nor rd rs rt) s = .next t ∧ (∀ k, k < 128 → (t.reg rd).getLsbD k = (!((s.reg rs).getLsbD k || (s.reg rt).getLsbD k))) ∧
      SameExcept [.gpr rd] s t)

/-- SLT and SLTU complete: rd is exactly 1 or 0 by the signed or unsigned order of the 64-bit views. From: 45_logical_compare.md R132, 45_logical_compare.md R133. -/
def Obligations.SetOnLessThanComparesTheDwordViews : Prop :=
  ∀ (s : State) (rd rs rt : RegIdx),
    (∃ t, exec (.slt rd rs rt) s = .next t ∧
      t.reg rd = (if (s.readDword rs).toInt < (s.readDword rt).toInt then 1 else 0) ∧ SameExcept [.gpr rd] s t) ∧
    (∃ t, exec (.sltu rd rs rt) s = .next t ∧
      t.reg rd = (if (s.readDword rs).toNat < (s.readDword rt).toNat then 1 else 0) ∧ SameExcept [.gpr rd] s t)

/-- SLT writes 1 exactly when TLT would fault, SLTU when TLTU would; both are total orders on the views (trap width: D8, log 13). From: 45_logical_compare.md R134, 46_traps_system.md R138, 46_traps_system.md R139. -/
def Obligations.SetOnLessThanWritesOneExactlyWhenTheTrapFaults : Prop :=
  ∀ (s t t' u u' : State) (rd rs rt : RegIdx),
    exec (.slt rd rs rt) s = .next t → exec (.slt rd rt rs) s = .next t' →
    exec (.sltu rd rs rt) s = .next u → exec (.sltu rd rt rs) s = .next u' →
    (t.reg rd = 1 ↔ exec (.tlt rs rt) s = .fault (.trap .tlt rs rt)) ∧
    (u.reg rd = 1 ↔ exec (.tltu rs rt) s = .fault (.trap .tltu rs rt)) ∧
    ((t.reg rd = 1 ∧ t'.reg rd = 0 ∧ s.readDword rs ≠ s.readDword rt) ∨
     (t.reg rd = 0 ∧ t'.reg rd = 1 ∧ s.readDword rs ≠ s.readDword rt) ∨
     (t.reg rd = 0 ∧ t'.reg rd = 0 ∧ s.readDword rs = s.readDword rt)) ∧
    ((u.reg rd = 1 ∧ u'.reg rd = 0 ∧ s.readDword rs ≠ s.readDword rt) ∨
     (u.reg rd = 0 ∧ u'.reg rd = 1 ∧ s.readDword rs ≠ s.readDword rt) ∨
     (u.reg rd = 0 ∧ u'.reg rd = 0 ∧ s.readDword rs = s.readDword rt))

/-- The six traps complete without effect when their condition fails, and fault with kind and indices when it holds (64-bit view: D8, log 13). From: 46_traps_system.md R135, 60_exceptions.md R151. -/
def Obligations.TrapsCompleteUnlessTheirConditionHolds : Prop :=
  ∀ (s : State) (rs rt : RegIdx),
    (¬((s.readDword rs).toInt ≥ (s.readDword rt).toInt) → exec (.tge rs rt) s = .next s) ∧
    ((s.readDword rs).toInt ≥ (s.readDword rt).toInt → exec (.tge rs rt) s = .fault (.trap .tge rs rt)) ∧
    (¬((s.readDword rs).toNat ≥ (s.readDword rt).toNat) → exec (.tgeu rs rt) s = .next s) ∧
    ((s.readDword rs).toNat ≥ (s.readDword rt).toNat → exec (.tgeu rs rt) s = .fault (.trap .tgeu rs rt)) ∧
    (¬((s.readDword rs).toInt < (s.readDword rt).toInt) → exec (.tlt rs rt) s = .next s) ∧
    ((s.readDword rs).toInt < (s.readDword rt).toInt → exec (.tlt rs rt) s = .fault (.trap .tlt rs rt)) ∧
    (¬((s.readDword rs).toNat < (s.readDword rt).toNat) → exec (.tltu rs rt) s = .next s) ∧
    ((s.readDword rs).toNat < (s.readDword rt).toNat → exec (.tltu rs rt) s = .fault (.trap .tltu rs rt)) ∧
    (¬(s.readDword rs = s.readDword rt) → exec (.teq rs rt) s = .next s) ∧
    (s.readDword rs = s.readDword rt → exec (.teq rs rt) s = .fault (.trap .teq rs rt)) ∧
    (¬(s.readDword rs ≠ s.readDword rt) → exec (.tne rs rt) s = .next s) ∧
    (s.readDword rs ≠ s.readDword rt → exec (.tne rs rt) s = .fault (.trap .tne rs rt))

/-- Under every TRAP_VIEW exactly one of TEQ and TNE, of TGE and TLT, of TGEU and TLTU faults, and the other does nothing. From: 46_traps_system.md R138, 46_traps_system.md R139, 46_traps_system.md R141. -/
def Obligations.ExactlyOneOfComplementaryTrapsFaults : Prop :=
  ∀ (c : Config) (s : State) (rs rt : RegIdx),
    ((handle c (.teq rs rt) s = .error (.trap .teq rs rt) ∧ handle c (.tne rs rt) s = .ok s) ∨
     (handle c (.teq rs rt) s = .ok s ∧ handle c (.tne rs rt) s = .error (.trap .tne rs rt))) ∧
    ((handle c (.tge rs rt) s = .error (.trap .tge rs rt) ∧ handle c (.tlt rs rt) s = .ok s) ∨
     (handle c (.tge rs rt) s = .ok s ∧ handle c (.tlt rs rt) s = .error (.trap .tlt rs rt))) ∧
    ((handle c (.tgeu rs rt) s = .error (.trap .tgeu rs rt) ∧ handle c (.tltu rs rt) s = .ok s) ∨
     (handle c (.tgeu rs rt) s = .ok s ∧ handle c (.tltu rs rt) s = .error (.trap .tltu rs rt)))

/-- SYSCALL and BREAK answer their Software-Exception fault on every state. Rules: R152. -/
def Obligations.SyscallAndBreakAlwaysFault : Prop :=
  ∀ s : State, exec .syscall s = .fault (.softwareException .syscall) ∧ exec .brk s = .fault (.softwareException .brk)

/-- SYNC completes with the state unchanged, for every value of its ignored bits. From: 46_traps_system.md R144, 20_memory.md R48. -/
def Obligations.SyncCompletesWithoutEffect : Prop :=
  (∀ s : State, exec .sync s = .next s) ∧
    ∀ (c : Config) (w : Word) (s : State), (decodeFields w).opcode = 0 →
      opOfFunct c.encoding.functMap (decodeFields w).funct = some .sync → execute c w s = (s, .ok)

/-- A call of the core whose outcome is a fault leaves the whole state as it was, under every configuration. Rules: R32. -/
def Obligations.FaultingCallChangesNoState : Prop :=
  ∀ (c : Config) (w : Word) (s s' : State) (f : Fault), execute c w s = (s', .fault f) → s' = s

/-- An instruction that completes changes only the elements the table of R37 lists for it, under every configuration. From: 10_state.md R37. -/
def Obligations.InstructionsChangeOnlyTheirDeclaredWrites : Prop :=
  (∀ (i : Instr) (s t : State), exec i s = .next t → SameExcept (writesOf i) s t) ∧
    ∀ (c : Config) (i : Instr) (s t : State), handle c i s = .ok t → SameExcept (writesOf i) s t

/-- HI, LO, SA change only in the instructions that name them; multiply and divide write no general register (the spec's D23, log 25). From: 10_state.md R38, 43_muldiv.md R108, 43_muldiv.md R114. -/
def Obligations.SpecialRegistersChangeOnlyWhereNamed : Prop :=
  ∀ (i : Instr) (s t : State), exec i s = .next t →
    (t.hi ≠ s.hi → ∃ rs rt, i = .mthi rs ∨ i = .mult rs rt ∨ i = .multu rs rt ∨ i = .div rs rt ∨ i = .divu rs rt) ∧
    (t.lo ≠ s.lo → ∃ rs rt, i = .mtlo rs ∨ i = .mult rs rt ∨ i = .multu rs rt ∨ i = .div rs rt ∨ i = .divu rs rt) ∧
    (t.sa ≠ s.sa → ∃ rs, i = .mtsa rs) ∧ t.saUpper = s.saUpper ∧
    ((∃ rs rt, i = .mult rs rt ∨ i = .multu rs rt ∨ i = .div rs rt ∨ i = .divu rs rt) → ∀ j, t.reg j = s.reg j)

/-- No instruction writes pc, and every instruction but JALR acts the same whatever pc holds, under every configuration. From: 10_state.md R25. -/
def Obligations.NoInstructionWritesPcAndOnlyJalrReadsIt : Prop :=
  ∀ (c : Config) (i : Instr) (s : State) (p : Word),
    (∀ t, handle c i s = .ok t → t.pc = s.pc) ∧
    ((∀ rd rs, i ≠ .jalr rd rs) → handle c i (s.setPc p) = (handle c i s).map (fun t => t.setPc p))

/-- No instruction reads npc and only JR and JALR write it, under every configuration. From: 10_state.md R26. -/
def Obligations.OnlyJumpsTouchNextPc : Prop :=
  ∀ (c : Config) (i : Instr) (s : State) (p : Word),
    (isJump i = false → (∀ t, handle c i s = .ok t → t.npc = s.npc) ∧
      handle c i (s.setNpc p) = (handle c i s).map (fun t => t.setNpc p)) ∧
    (isJump i = true → handle c i (s.setNpc p) = handle c i s)

/-- Closure: from a state whose registers, HI and LO are dword-canonical every step leads to such a state. From: 10_state.md R21. -/
def Obligations.StepKeepsRegistersDwordCanonical : Prop :=
  ∀ s t : State, Canonical s → step s = .next t → Canonical t

/-- After reset every register, HI and LO is dword-canonical. From: 10_state.md R21, 10_state.md R36. -/
def Obligations.ResetIsDwordCanonical : Prop :=
  Canonical State.reset

/-- Closure under every configuration with canonical DIV0, DIV_OVF and link values, a divide of at most 64 bits and no 128-bit MFSA. From: 10_state.md R21, 43_muldiv.md R111. -/
def Obligations.HandlersKeepDwordCanonicalUnderEveryConfiguration : Prop :=
  ∀ (c : Config) (i : Instr) (s t : State), KeepsCanonical c → Canonical s → handle c i s = .ok t → Canonical t

/-- On canonical states the open readings (TRAP_VIEW 128, MOVZ test 64, HI/LO transfer 64, HI and LO of 64 bits) have no observable effect. From: 10_state.md R21, 92_eei_decisions.md D1, D8, D9. -/
def Obligations.OpenWidthsDoNotShowOnCanonicalStates : Prop :=
  ∀ (i : Instr) (s : State), Canonical s →
    handle { referenceConfig with trapView := .qword } i s = handle referenceConfig i s ∧
    handle { referenceConfig with movzTestWidth := .dword } i s = handle referenceConfig i s ∧
    handle { referenceConfig with hiloXfer := .dword } i s = handle referenceConfig i s ∧
    handle { referenceConfig with hiWidth := .dword, loWidth := .dword, hiloXfer := .dword } i s = handle referenceConfig i s

/-- No step changes the program text: Fetch is a fixed function for the whole run, and a canonical text stays canonical (text: log 1). From: 20_memory.md R40, 20_memory.md R49. -/
def Obligations.StepKeepsTheProgramText : Prop :=
  ∀ s t : State, step s = .next t →
    t.text = s.text ∧ (∀ a, t.byteAt a = s.byteAt a) ∧ (Memory.wf s.text = true → Memory.wf t.text = true)

/-- Renaming the registers by any permutation commutes with every instruction: no index is special (register 0 ordinary: the spec's D12, log 9). From: 10_state.md R12, 95_test_vectors.md section 4 item 10. -/
def Obligations.NoRegisterIndexIsSpecial : Prop :=
  ∀ (f g : RegIdx → RegIdx), (∀ i, g (f i) = i) → (∀ i, f (g i) = i) → ∀ (i : Instr) (s : State),
    (∀ t, exec i s = .next t → exec (renameInstr f i) (permuteRegs g s) = .next (permuteRegs g t)) ∧
    (∀ x, exec i s = .fault x → exec (renameInstr f i) (permuteRegs g s) = .fault (renameFault f x))

/-- With R0_HARDWIRED true no instruction and no host write changes register 0; with it false NOR r0, r0, r0 complements it. From: 10_state.md R12. -/
def Obligations.HardwiredVariantNeverChangesRegisterZero : Prop :=
  (∀ c : Config, c.r0Hardwired = true → ∀ s : State,
      (∀ i t, handle c i s = .ok t → t.reg 0 = s.reg 0) ∧ ∀ h, (s.hostWrite c h).reg 0 = s.reg 0) ∧
    ∀ s : State, ∃ t, exec (.nor 0 0 0) s = .next t ∧ t.reg 0 = ~~~ s.reg 0 ∧ SameExcept [.gpr 0] s t

/-- The all-zero word is SLL r0, r0, 0, a no-op exactly when x[0] is word-canonical (funct: the spec's D3, log 5; register 0: D12, log 9). From: 30_encoding.md R61, 70_reset_and_hazards.md R174. -/
def Obligations.AllZeroWordIsNoOpExactlyWhenRegisterZeroIsWordCanonical : Prop :=
  decode 0x00000000 = .ok (.sll 0 0 0) ∧ ∀ s : State, exec (.sll 0 0 0) s = .next s ↔ WordCanonical (s.reg 0)

/-- exec never refuses, and an instruction that faults raises the one kind proper to it. From: 60_exceptions.md R147, 60_exceptions.md R155. -/
def Obligations.EachInstructionRaisesOnlyItsOwnFault : Prop :=
  ∀ (i : Instr) (s : State),
    (∃ t, exec i s = .next t) ∨
    (∃ rd rs rt, (i = .add rd rs rt ∧ exec i s = .fault (.arithmeticOverflow .add)) ∨
      (i = .sub rd rs rt ∧ exec i s = .fault (.arithmeticOverflow .sub)) ∨
      (i = .dadd rd rs rt ∧ exec i s = .fault (.arithmeticOverflow .dadd)) ∨
      (i = .dsub rd rs rt ∧ exec i s = .fault (.arithmeticOverflow .dsub))) ∨
    (∃ rs rt, (i = .tge rs rt ∧ exec i s = .fault (.trap .tge rs rt)) ∨ (i = .tgeu rs rt ∧ exec i s = .fault (.trap .tgeu rs rt)) ∨
      (i = .tlt rs rt ∧ exec i s = .fault (.trap .tlt rs rt)) ∨ (i = .tltu rs rt ∧ exec i s = .fault (.trap .tltu rs rt)) ∨
      (i = .teq rs rt ∧ exec i s = .fault (.trap .teq rs rt)) ∨ (i = .tne rs rt ∧ exec i s = .fault (.trap .tne rs rt))) ∨
    (i = .syscall ∧ exec i s = .fault (.softwareException .syscall)) ∨
    (i = .brk ∧ exec i s = .fault (.softwareException .brk))

/-- HI and LO have no interlock: a read right after any instruction sees the new value, and a later multiply does not disturb the copy. From: 70_reset_and_hazards.md R172, 42_moves.md R97. -/
def Obligations.HiAndLoNeedNoSpacing : Prop :=
  ∀ (i j : Instr) (s t : State) (rd : RegIdx), exec i s = .next t →
    (∃ u, exec (.mfhi rd) t = .next u ∧ u.reg rd = t.hi) ∧
    (∃ u, exec (.mflo rd) t = .next u ∧ u.reg rd = t.lo) ∧
    ((∃ rs rt, j = .mult rs rt ∨ j = .multu rs rt ∨ j = .div rs rt ∨ j = .divu rs rt) →
      (i = .mfhi rd ∨ i = .mflo rd) → ∃ u, exec j t = .next u ∧ u.reg rd = t.reg rd)

/-- Drivers S and T give the same outcome and state for every word that is no JALR, under every configuration (D13, log 17). From: 70_reset_and_hazards.md R170. -/
def Obligations.DriversAgreeOnEveryWordButJalr : Prop :=
  ∀ (c : Config) (w : Word) (s : State), (∀ rd rs, decodeWith c.encoding w ≠ .ok (.jalr rd rs)) →
    driveWordS c w s = driveWordT c w s

/-- For a program text without a JALR word, runs of any length under drivers S and T end in the same outcome and state (D13, log 17; a resumed run's result: log 18). From: 70_reset_and_hazards.md R170, 95_test_vectors.md section 4 item 9. -/
def Obligations.RunsUnderBothDriversAgreeWithoutJalr : Prop :=
  ∀ (c : Config) (s : State),
    (∀ (a w : Word) (rd rs : RegIdx), a.toNat % 4 = 0 → fetchWord c.fetchByteOrder s.text a = some w →
      decodeWith c.encoding w ≠ .ok (.jalr rd rs)) →
    ∀ n, driveRun { c with driver := .s } n s = driveRun { c with driver := .t } n s

/-- JALR fetched from A links A + 12 under driver S and A + 8 under T; fetch and target are the same (the spec's D13, C2; log 17). From: 70_reset_and_hazards.md R170. -/
def Obligations.JalrLinksAPlusTwelveUnderSAndAPlusEightUnderT : Prop :=
  ∀ (c : Config) (w : Word) (s : State) (rd rs : RegIdx), c.r0Hardwired = false → c.linkWrite = sextWord →
    decodeWith c.encoding w = .ok (.jalr rd rs) → s.npc = s.pc + 4 →
    (∃ t, driveWordS c w s = .running t ∧ t.reg rd = sextWord (s.pc + 12) ∧ t.pc = s.pc + 4 ∧ t.npc = s.readWord rs) ∧
    (∃ t, driveWordT c w s = .running t ∧ t.reg rd = sextWord (s.pc + 8) ∧ t.pc = s.pc + 4 ∧ t.npc = s.readWord rs)

/-- The delay slot: after a jump the instruction at the old npc runs, then control is at the target (driver S, D13, log 17). From: 70_reset_and_hazards.md R168, 41_jumps.md R92. -/
def Obligations.JumpTakesEffectAfterOneInstruction : Prop :=
  ∀ (s t u : State) (rs : RegIdx) (j i : Instr), (j = .jr rs ∨ ∃ rd, j = .jalr rd rs) →
    Fetches s j → step s = .next t → Fetches t i → isJump i = false → step t = .next u →
    t.pc = s.npc ∧ t.npc = s.readWord rs ∧ u.pc = s.readWord rs ∧ u.npc = s.readWord rs + 4

/-- A jump in a delay slot: exactly one instruction runs at the first target, then control is at the second (the spec's D26, D13, D10; log 24, 17, 15). From: 70_reset_and_hazards.md R171, 41_jumps.md R91. -/
def Obligations.JumpInDelaySlotRunsOneInstructionAtTheFirstTarget : Prop :=
  ∀ (s t u v : State) (rs1 rs2 : RegIdx) (j k i : Instr),
    (j = .jr rs1 ∨ ∃ rd, j = .jalr rd rs1) → (k = .jr rs2 ∨ ∃ rd, k = .jalr rd rs2) →
    Fetches s j → step s = .next t → Fetches t k → step t = .next u → Fetches u i → isJump i = false → step u = .next v →
    u.pc = s.readWord rs1 ∧ u.npc = t.readWord rs2 ∧ v.pc = t.readWord rs2 ∧ v.npc = t.readWord rs2 + 4 ∧
    ∀ rd, k = .jalr rd rs2 → u.reg rd = sextWord (s.readWord rs1 + 8)

/-- A fault ends the run: only the counters have advanced, and a jump before it stands, its link too (the spec's D14, D13, D10; log 18, 17, 15). From: 70_reset_and_hazards.md R169, 70_reset_and_hazards.md R177, 60_exceptions.md R156. -/
def Obligations.FaultHaltsTheRunWithCountersAdvanced : Prop :=
  (∀ (s s' : State) (w : Word) (f : Fault), fetchAtPc referenceConfig s = .ok w →
      execute referenceConfig w s.advance = (s', .fault f) →
      drive referenceConfig s = .halted f { s with pc := s.npc, npc := s.npc + 4 } ∧ step s = .fault f) ∧
    ∀ (s t u : State) (rs : RegIdx) (j : Instr) (f : Fault), (j = .jr rs ∨ ∃ rd, j = .jalr rd rs) → Fetches s j →
      step s = .next t → drive referenceConfig t = .halted f u →
      u = { t with pc := s.readWord rs, npc := s.readWord rs + 4 } ∧
      ∀ rd, j = .jalr rd rs → u.reg rd = sextWord (s.npc + 8)
end

