-- ==== Sys2Proof/Laws/State.lean ====
section
/-! SUPPORT. One lemma per field per update of State, so that no proof unfolds a record update; the write accessors under the
reference configuration; the values of the reference configuration. -/

namespace Sys2Proof.Machine

@[simp] theorem setReg_hi (s : State) (i : RegIdx) (v : Qword) : (s.setReg i v).hi = s.hi := rfl
@[simp] theorem setReg_lo (s : State) (i : RegIdx) (v : Qword) : (s.setReg i v).lo = s.lo := rfl
@[simp] theorem setReg_sa (s : State) (i : RegIdx) (v : Qword) : (s.setReg i v).sa = s.sa := rfl
@[simp] theorem setReg_saUpper (s : State) (i : RegIdx) (v : Qword) : (s.setReg i v).saUpper = s.saUpper := rfl
@[simp] theorem setReg_pc (s : State) (i : RegIdx) (v : Qword) : (s.setReg i v).pc = s.pc := rfl
@[simp] theorem setReg_npc (s : State) (i : RegIdx) (v : Qword) : (s.setReg i v).npc = s.npc := rfl
@[simp] theorem setReg_text (s : State) (i : RegIdx) (v : Qword) : (s.setReg i v).text = s.text := rfl
@[simp] theorem setReg_byteAt (s : State) (i : RegIdx) (v : Qword) (n : Nat) : (s.setReg i v).byteAt n = s.byteAt n := rfl

@[simp] theorem setHi_gpr (s : State) (v : Qword) : (s.setHi v).gpr = s.gpr := rfl
@[simp] theorem setHi_hi (s : State) (v : Qword) : (s.setHi v).hi = v := rfl
@[simp] theorem setHi_lo (s : State) (v : Qword) : (s.setHi v).lo = s.lo := rfl
@[simp] theorem setHi_sa (s : State) (v : Qword) : (s.setHi v).sa = s.sa := rfl
@[simp] theorem setHi_saUpper (s : State) (v : Qword) : (s.setHi v).saUpper = s.saUpper := rfl
@[simp] theorem setHi_pc (s : State) (v : Qword) : (s.setHi v).pc = s.pc := rfl
@[simp] theorem setHi_npc (s : State) (v : Qword) : (s.setHi v).npc = s.npc := rfl
@[simp] theorem setHi_text (s : State) (v : Qword) : (s.setHi v).text = s.text := rfl
@[simp] theorem setHi_reg (s : State) (v : Qword) (j : RegIdx) : (s.setHi v).reg j = s.reg j := rfl
@[simp] theorem setHi_byteAt (s : State) (v : Qword) (n : Nat) : (s.setHi v).byteAt n = s.byteAt n := rfl

@[simp] theorem setLo_gpr (s : State) (v : Qword) : (s.setLo v).gpr = s.gpr := rfl
@[simp] theorem setLo_hi (s : State) (v : Qword) : (s.setLo v).hi = s.hi := rfl
@[simp] theorem setLo_lo (s : State) (v : Qword) : (s.setLo v).lo = v := rfl
@[simp] theorem setLo_sa (s : State) (v : Qword) : (s.setLo v).sa = s.sa := rfl
@[simp] theorem setLo_saUpper (s : State) (v : Qword) : (s.setLo v).saUpper = s.saUpper := rfl
@[simp] theorem setLo_pc (s : State) (v : Qword) : (s.setLo v).pc = s.pc := rfl
@[simp] theorem setLo_npc (s : State) (v : Qword) : (s.setLo v).npc = s.npc := rfl
@[simp] theorem setLo_text (s : State) (v : Qword) : (s.setLo v).text = s.text := rfl
@[simp] theorem setLo_reg (s : State) (v : Qword) (j : RegIdx) : (s.setLo v).reg j = s.reg j := rfl
@[simp] theorem setLo_byteAt (s : State) (v : Qword) (n : Nat) : (s.setLo v).byteAt n = s.byteAt n := rfl

@[simp] theorem setHiLo_gpr (s : State) (p : HiLo) : (s.setHiLo p).gpr = s.gpr := rfl
@[simp] theorem setHiLo_hi (s : State) (p : HiLo) : (s.setHiLo p).hi = p.hi := rfl
@[simp] theorem setHiLo_lo (s : State) (p : HiLo) : (s.setHiLo p).lo = p.lo := rfl
@[simp] theorem setHiLo_sa (s : State) (p : HiLo) : (s.setHiLo p).sa = s.sa := rfl
@[simp] theorem setHiLo_saUpper (s : State) (p : HiLo) : (s.setHiLo p).saUpper = s.saUpper := rfl
@[simp] theorem setHiLo_pc (s : State) (p : HiLo) : (s.setHiLo p).pc = s.pc := rfl
@[simp] theorem setHiLo_npc (s : State) (p : HiLo) : (s.setHiLo p).npc = s.npc := rfl
@[simp] theorem setHiLo_text (s : State) (p : HiLo) : (s.setHiLo p).text = s.text := rfl
@[simp] theorem setHiLo_reg (s : State) (p : HiLo) (j : RegIdx) : (s.setHiLo p).reg j = s.reg j := rfl
@[simp] theorem setHiLo_byteAt (s : State) (p : HiLo) (n : Nat) : (s.setHiLo p).byteAt n = s.byteAt n := rfl

@[simp] theorem setSa_gpr (s : State) (v : Dword) : (s.setSa v).gpr = s.gpr := rfl
@[simp] theorem setSa_hi (s : State) (v : Dword) : (s.setSa v).hi = s.hi := rfl
@[simp] theorem setSa_lo (s : State) (v : Dword) : (s.setSa v).lo = s.lo := rfl
@[simp] theorem setSa_sa (s : State) (v : Dword) : (s.setSa v).sa = v := rfl
@[simp] theorem setSa_saUpper (s : State) (v : Dword) : (s.setSa v).saUpper = s.saUpper := rfl
@[simp] theorem setSa_pc (s : State) (v : Dword) : (s.setSa v).pc = s.pc := rfl
@[simp] theorem setSa_npc (s : State) (v : Dword) : (s.setSa v).npc = s.npc := rfl
@[simp] theorem setSa_text (s : State) (v : Dword) : (s.setSa v).text = s.text := rfl
@[simp] theorem setSa_reg (s : State) (v : Dword) (j : RegIdx) : (s.setSa v).reg j = s.reg j := rfl
@[simp] theorem setSa_byteAt (s : State) (v : Dword) (n : Nat) : (s.setSa v).byteAt n = s.byteAt n := rfl

@[simp] theorem setSaUpper_gpr (s : State) (v : Dword) : (s.setSaUpper v).gpr = s.gpr := rfl
@[simp] theorem setSaUpper_hi (s : State) (v : Dword) : (s.setSaUpper v).hi = s.hi := rfl
@[simp] theorem setSaUpper_lo (s : State) (v : Dword) : (s.setSaUpper v).lo = s.lo := rfl
@[simp] theorem setSaUpper_sa (s : State) (v : Dword) : (s.setSaUpper v).sa = s.sa := rfl
@[simp] theorem setSaUpper_saUpper (s : State) (v : Dword) : (s.setSaUpper v).saUpper = v := rfl
@[simp] theorem setSaUpper_pc (s : State) (v : Dword) : (s.setSaUpper v).pc = s.pc := rfl
@[simp] theorem setSaUpper_npc (s : State) (v : Dword) : (s.setSaUpper v).npc = s.npc := rfl
@[simp] theorem setSaUpper_text (s : State) (v : Dword) : (s.setSaUpper v).text = s.text := rfl
@[simp] theorem setSaUpper_reg (s : State) (v : Dword) (j : RegIdx) : (s.setSaUpper v).reg j = s.reg j := rfl
@[simp] theorem setSaUpper_byteAt (s : State) (v : Dword) (n : Nat) : (s.setSaUpper v).byteAt n = s.byteAt n := rfl

@[simp] theorem setPc_gpr (s : State) (v : Word) : (s.setPc v).gpr = s.gpr := rfl
@[simp] theorem setPc_hi (s : State) (v : Word) : (s.setPc v).hi = s.hi := rfl
@[simp] theorem setPc_lo (s : State) (v : Word) : (s.setPc v).lo = s.lo := rfl
@[simp] theorem setPc_sa (s : State) (v : Word) : (s.setPc v).sa = s.sa := rfl
@[simp] theorem setPc_saUpper (s : State) (v : Word) : (s.setPc v).saUpper = s.saUpper := rfl
@[simp] theorem setPc_pc (s : State) (v : Word) : (s.setPc v).pc = v := rfl
@[simp] theorem setPc_npc (s : State) (v : Word) : (s.setPc v).npc = s.npc := rfl
@[simp] theorem setPc_text (s : State) (v : Word) : (s.setPc v).text = s.text := rfl
@[simp] theorem setPc_reg (s : State) (v : Word) (j : RegIdx) : (s.setPc v).reg j = s.reg j := rfl
@[simp] theorem setPc_byteAt (s : State) (v : Word) (n : Nat) : (s.setPc v).byteAt n = s.byteAt n := rfl

@[simp] theorem setNpc_gpr (s : State) (v : Word) : (s.setNpc v).gpr = s.gpr := rfl
@[simp] theorem setNpc_hi (s : State) (v : Word) : (s.setNpc v).hi = s.hi := rfl
@[simp] theorem setNpc_lo (s : State) (v : Word) : (s.setNpc v).lo = s.lo := rfl
@[simp] theorem setNpc_sa (s : State) (v : Word) : (s.setNpc v).sa = s.sa := rfl
@[simp] theorem setNpc_saUpper (s : State) (v : Word) : (s.setNpc v).saUpper = s.saUpper := rfl
@[simp] theorem setNpc_pc (s : State) (v : Word) : (s.setNpc v).pc = s.pc := rfl
@[simp] theorem setNpc_npc (s : State) (v : Word) : (s.setNpc v).npc = v := rfl
@[simp] theorem setNpc_text (s : State) (v : Word) : (s.setNpc v).text = s.text := rfl
@[simp] theorem setNpc_reg (s : State) (v : Word) (j : RegIdx) : (s.setNpc v).reg j = s.reg j := rfl
@[simp] theorem setNpc_byteAt (s : State) (v : Word) (n : Nat) : (s.setNpc v).byteAt n = s.byteAt n := rfl

theorem setReg_reg (s : State) (i j : RegIdx) (v : Qword) : (s.setReg i v).reg j = if i = j then v else s.reg j := by
  simp [State.setReg, State.reg, Vector.getElem_set, Fin.ext_iff]

@[simp] theorem setReg_reg_same (s : State) (i : RegIdx) (v : Qword) : (s.setReg i v).reg i = v := by
  simp [setReg_reg]

@[simp] theorem setReg_reg_ne (s : State) (i j : RegIdx) (v : Qword) (h : i ≠ j) : (s.setReg i v).reg j = s.reg j := by
  simp [setReg_reg, h]

/-- Two states with the same registers, special registers, counters and text are one state. -/
theorem state_ext (s t : State) (hr : ∀ i, s.reg i = t.reg i) (hh : s.hi = t.hi) (hl : s.lo = t.lo) (ha : s.sa = t.sa)
    (hu : s.saUpper = t.saUpper) (hp : s.pc = t.pc) (hn : s.npc = t.npc) (ht : s.text = t.text) : s = t := by
  obtain ⟨g, _, _, _, _, _, _, _⟩ := s
  obtain ⟨g', _, _, _, _, _, _, _⟩ := t
  have hg : g = g' := Vector.ext fun k hk => hr ⟨k, hk⟩
  simp_all

/-- Writing back what a register holds changes nothing. -/
@[simp] theorem setReg_self (s : State) (i : RegIdx) : s.setReg i (s.reg i) = s := by
  refine state_ext _ _ (fun j => ?_) rfl rfl rfl rfl rfl rfl rfl
  by_cases h : i = j <;> simp [h]

@[simp] theorem advance_reg (s : State) (i : RegIdx) : s.advance.reg i = s.reg i := rfl
@[simp] theorem advance_hi (s : State) : s.advance.hi = s.hi := rfl
@[simp] theorem advance_lo (s : State) : s.advance.lo = s.lo := rfl
@[simp] theorem advance_sa (s : State) : s.advance.sa = s.sa := rfl
@[simp] theorem advance_saUpper (s : State) : s.advance.saUpper = s.saUpper := rfl
@[simp] theorem advance_pc (s : State) : s.advance.pc = s.npc := rfl
@[simp] theorem advance_npc (s : State) : s.advance.npc = s.npc + 4 := rfl
@[simp] theorem advance_text (s : State) : s.advance.text = s.text := rfl

@[simp] theorem withFetchWord_text (s : State) (nbits w : Nat) :
    (s.withFetchWord nbits w).text = textWithWord referenceConfig s nbits w := rfl
@[simp] theorem withFetchWord_pc (s : State) (nbits w : Nat) : (s.withFetchWord nbits w).pc = s.pc := rfl
@[simp] theorem withFetchWord_npc (s : State) (nbits w : Nat) : (s.withFetchWord nbits w).npc = s.npc := rfl
@[simp] theorem withFetchWord_reg (s : State) (nbits w : Nat) (i : RegIdx) :
    (s.withFetchWord nbits w).reg i = s.reg i := rfl

@[simp] theorem reset_reg (i : RegIdx) : State.reset.reg i = 0 := by
  simp [State.reset, State.reg]

@[simp] theorem referenceConfig_encoding : referenceConfig.encoding = standardEncoding := rfl
@[simp] theorem referenceConfig_r0Hardwired : referenceConfig.r0Hardwired = false := rfl
@[simp] theorem referenceConfig_hiWidth : referenceConfig.hiWidth = .qword := rfl
@[simp] theorem referenceConfig_loWidth : referenceConfig.loWidth = .qword := rfl
@[simp] theorem referenceConfig_hiloXfer : referenceConfig.hiloXfer = .qword := rfl
@[simp] theorem referenceConfig_saWidth : referenceConfig.saWidth = .dword := rfl
@[simp] theorem referenceConfig_saXfer : referenceConfig.saXfer = .dword := rfl
@[simp] theorem referenceConfig_divWidth : referenceConfig.divWidth = .word := rfl
@[simp] theorem referenceConfig_div0 : referenceConfig.div0 = div0Fill := rfl
@[simp] theorem referenceConfig_divOvf : referenceConfig.divOvf = divOvfWrap := rfl
@[simp] theorem referenceConfig_trapView : referenceConfig.trapView = .dword := rfl
@[simp] theorem referenceConfig_movzTestWidth : referenceConfig.movzTestWidth = .qword := rfl
@[simp] theorem referenceConfig_linkWrite : referenceConfig.linkWrite = sextWord := rfl
@[simp] theorem referenceConfig_dshiftPlainAmount : referenceConfig.dshiftPlainAmount = BitVec.toNat := rfl
@[simp] theorem referenceConfig_driver : referenceConfig.driver = .s := rfl
@[simp] theorem referenceConfig_faultDisposition : referenceConfig.faultDisposition = .halt := rfl

@[simp] theorem writeQword_reference (s : State) (i : RegIdx) (v : Qword) :
    s.writeQword referenceConfig i v = s.setReg i v := rfl
@[simp] theorem writeWord_reference (s : State) (i : RegIdx) (v : Word) :
    s.writeWord referenceConfig i v = s.setReg i (sextWord v) := rfl
@[simp] theorem writeDword_reference (s : State) (i : RegIdx) (v : Dword) :
    s.writeDword referenceConfig i v = s.setReg i (sextDword v) := rfl
@[simp] theorem readHi_reference (s : State) : s.readHi referenceConfig = s.hi := rfl
@[simp] theorem readLo_reference (s : State) : s.readLo referenceConfig = s.lo := rfl
@[simp] theorem readHiLo_reference (s : State) : s.readHiLo referenceConfig = ⟨s.hi, s.lo⟩ := rfl
@[simp] theorem readSa_reference (s : State) : s.readSa referenceConfig = sextDword s.sa := rfl
@[simp] theorem writeHi_reference (s : State) (v : Qword) : s.writeHi referenceConfig v = s.setHi v := rfl
@[simp] theorem writeLo_reference (s : State) (v : Qword) : s.writeLo referenceConfig v = s.setLo v := rfl
@[simp] theorem writeHiLo_reference (s : State) (p : HiLo) : s.writeHiLo referenceConfig p = s.setHiLo p := rfl
@[simp] theorem writeSa_reference (s : State) (v : Qword) : s.writeSa referenceConfig v = s.setSa (lowDword v) := rfl

end Sys2Proof.Machine
end

