-- ==== Sys2Proof/Laws/Ops.lean ====
section
/-! SUPPORT. What each shared operation can do, said once: write accessors, the extension functions, the contracts of the families, the
core's entry point and the drivers. -/

namespace Sys2Proof.Machine

/-- Under any configuration a register write sets the register, or (register 0 hard-wired) changes nothing. -/
theorem writeQword_cases (c : Config) (s : State) (i : RegIdx) (v : Qword) :
    s.writeQword c i v = s.setReg i v ∨ (c.r0Hardwired = true ∧ i = 0 ∧ s.writeQword c i v = s) := by
  unfold State.writeQword
  split
  · rename_i h
    simp only [Bool.and_eq_true, decide_eq_true_eq] at h
    exact .inr ⟨h.1, h.2, rfl⟩
  · exact .inl rfl

@[simp] theorem writeQword_hi (c : Config) (s : State) (i : RegIdx) (v : Qword) : (s.writeQword c i v).hi = s.hi := by
  unfold State.writeQword; split <;> rfl
@[simp] theorem writeQword_lo (c : Config) (s : State) (i : RegIdx) (v : Qword) : (s.writeQword c i v).lo = s.lo := by
  unfold State.writeQword; split <;> rfl
@[simp] theorem writeQword_sa (c : Config) (s : State) (i : RegIdx) (v : Qword) : (s.writeQword c i v).sa = s.sa := by
  unfold State.writeQword; split <;> rfl
@[simp] theorem writeQword_saUpper (c : Config) (s : State) (i : RegIdx) (v : Qword) :
    (s.writeQword c i v).saUpper = s.saUpper := by
  unfold State.writeQword; split <;> rfl
@[simp] theorem writeQword_pc (c : Config) (s : State) (i : RegIdx) (v : Qword) : (s.writeQword c i v).pc = s.pc := by
  unfold State.writeQword; split <;> rfl
@[simp] theorem writeQword_npc (c : Config) (s : State) (i : RegIdx) (v : Qword) : (s.writeQword c i v).npc = s.npc := by
  unfold State.writeQword; split <;> rfl
@[simp] theorem writeQword_text (c : Config) (s : State) (i : RegIdx) (v : Qword) : (s.writeQword c i v).text = s.text := by
  unfold State.writeQword; split <;> rfl

@[simp] theorem lowWord_sextWord (v : Word) : lowWord (sextWord v) = v := by
  apply BitVec.eq_of_getLsbD_eq
  intro k hk
  simp only [lowWord, sextWord, BitVec.getLsbD_setWidth, BitVec.getLsbD_signExtend]
  simp [hk, show k < 128 by omega]

@[simp] theorem lowDword_sextDword (v : Dword) : lowDword (sextDword v) = v := by
  apply BitVec.eq_of_getLsbD_eq
  intro k hk
  simp only [lowDword, sextDword, BitVec.getLsbD_setWidth, BitVec.getLsbD_signExtend]
  simp [hk, show k < 128 by omega]

/-- A word-canonical value is dword-canonical (R21). -/
theorem dwordCanonical_sextWord (v : Word) : DwordCanonical (sextWord v) := by
  apply BitVec.eq_of_getLsbD_eq
  intro k hk
  simp only [lowDword, sextDword, sextWord, BitVec.getLsbD_setWidth, BitVec.getLsbD_signExtend, BitVec.msb_eq_getLsbD_last]
  by_cases h1 : k < 32
  · simp [h1, hk, show k < 64 by omega]
  · by_cases h2 : k < 64 <;> simp [h1, h2, hk]

/-- Every sign-extension of a dword is dword-canonical. -/
theorem dwordCanonical_sextDword (v : Dword) : DwordCanonical (sextDword v) := by
  simp [DwordCanonical]

@[simp] theorem viewNarrow_word (x : Qword) : viewNarrow .word x = sextWord (lowWord x) := rfl
@[simp] theorem viewNarrow_dword (x : Qword) : viewNarrow .dword x = sextDword (lowDword x) := rfl
@[simp] theorem viewNarrow_qword (x : Qword) : viewNarrow .qword x = x := rfl

/-- Narrowing twice to one view is narrowing once. -/
@[simp] theorem viewNarrow_viewNarrow (v : View) (x : Qword) : viewNarrow v (viewNarrow v x) = viewNarrow v x := by
  cases v <;> simp

/-- A view of a canonical value is canonical (R21). -/
theorem dwordCanonical_viewNarrow (v : View) (x : Qword) (h : DwordCanonical x) : DwordCanonical (viewNarrow v x) := by
  cases v
  · exact dwordCanonical_sextWord _
  · exact dwordCanonical_sextDword _
  · exact h

/-- A view of at most 64 bits is canonical, whatever the value (R21). -/
theorem dwordCanonical_viewNarrow_of_ne (v : View) (x : Qword) (h : v ≠ .qword) : DwordCanonical (viewNarrow v x) := by
  cases v
  · exact dwordCanonical_sextWord _
  · exact dwordCanonical_sextDword _
  · exact absurd rfl h

/-- On a dword-canonical value the dword and the qword view agree (R21). -/
theorem viewNarrow_dword_of_canonical (x : Qword) (h : DwordCanonical x) : viewNarrow .dword x = x := h

/-- The two halves of 128 bits, joined. -/
theorem append_halves (v : BitVec (64 + 64)) : v.extractLsb' 64 64 ++ v.setWidth 64 = v := by
  apply BitVec.eq_of_getLsbD_eq
  intro k hk
  rw [BitVec.getLsbD_append, BitVec.getLsbD_setWidth, BitVec.getLsbD_extractLsb']
  by_cases h : k < 64
  · simp [h]
  · simp [h, show k - 64 < 64 by omega, show 64 + (k - 64) = k by omega]

/-- The low word of an integer cut to 128 bits is the integer cut to 32. -/
theorem lowWord_ofInt (i : Int) : lowWord (BitVec.ofInt 128 i) = BitVec.ofInt 32 i := by
  apply BitVec.eq_of_toNat_eq
  simp only [lowWord, BitVec.toNat_setWidth, BitVec.toNat_ofInt]
  omega

/-- SA reads back the bits of its width that were written. -/
@[simp] theorem writeSa_readSa (c : Config) (s : State) (v : Qword) :
    (s.writeSa c v).readSa c = viewNarrow c.saWidth v := by
  cases h : c.saWidth <;>
    simp only [State.writeSa, State.readSa, saLow, saHigh, h, setSa_sa, setSaUpper_sa, setSaUpper_saUpper, viewNarrow]
  · rw [show (lowDword (sextWord (lowWord v))).setWidth 32 = lowWord (sextWord (lowWord v)) by
      simp [lowWord, lowDword], lowWord_sextWord]
  · exact append_halves v

/-- HI reads back the bits of its width that were written. -/
@[simp] theorem writeHi_readHi (c : Config) (s : State) (v : Qword) :
    (s.writeHi c v).readHi c = viewNarrow c.hiWidth v := viewNarrow_viewNarrow _ _

/-- LO reads back the bits of its width that were written. -/
@[simp] theorem writeLo_readLo (c : Config) (s : State) (v : Qword) :
    (s.writeLo c v).readLo c = viewNarrow c.loWidth v := viewNarrow_viewNarrow _ _

/-- What SA reads as is canonical unless it has 128 bits. -/
theorem dwordCanonical_readSa (c : Config) (s : State) (h : c.saWidth ≠ .qword) : DwordCanonical (s.readSa c) := by
  unfold State.readSa
  cases e : c.saWidth
  · exact dwordCanonical_sextWord _
  · exact dwordCanonical_sextDword _
  · exact absurd e h

/-- Everything a signed divide can give: DIV0 on a zero divisor, DIV_OVF on the one overflow, else quotient and remainder
(R109, R111, R112). -/
theorem divideSigned_cases (c : Config) (a b : Qword) (old : HiLo) :
    (viewSigned c.divWidth b = 0 ∧ divideSigned c a b old = c.div0 .signed (viewNarrow c.divWidth a) old) ∨
    (viewSigned c.divWidth b ≠ 0 ∧ (viewSigned c.divWidth a = viewLeast c.divWidth ∧ viewSigned c.divWidth b = -1) ∧
      divideSigned c a b old = c.divOvf) ∨
    (viewSigned c.divWidth b ≠ 0 ∧ ¬(viewSigned c.divWidth a = viewLeast c.divWidth ∧ viewSigned c.divWidth b = -1) ∧
      divideSigned c a b old = quotientHiLo c.divWidth ((viewSigned c.divWidth a).tdiv (viewSigned c.divWidth b))
        (viewSigned c.divWidth a - (viewSigned c.divWidth a).tdiv (viewSigned c.divWidth b) * viewSigned c.divWidth b)) := by
  by_cases h : viewSigned c.divWidth b = 0
  · exact .inl ⟨h, if_pos h⟩
  · by_cases g : viewSigned c.divWidth a = viewLeast c.divWidth ∧ viewSigned c.divWidth b = -1
    · exact .inr (.inl ⟨h, g, (if_neg h).trans (if_pos g)⟩)
    · exact .inr (.inr ⟨h, g, (if_neg h).trans (if_neg g)⟩)

/-- Everything an unsigned divide can give: DIV0 on a zero divisor, else quotient and remainder (R110, R111). -/
theorem divideUnsigned_cases (c : Config) (a b : Qword) (old : HiLo) :
    (viewUnsigned c.divWidth b = 0 ∧ divideUnsigned c a b old = c.div0 .unsigned (viewNarrow c.divWidth a) old) ∨
    (viewUnsigned c.divWidth b ≠ 0 ∧
      divideUnsigned c a b old = quotientHiLo c.divWidth (viewUnsigned c.divWidth a / viewUnsigned c.divWidth b : Nat)
        (viewUnsigned c.divWidth a - viewUnsigned c.divWidth a / viewUnsigned c.divWidth b * viewUnsigned c.divWidth b : Nat)) := by
  by_cases h : viewUnsigned c.divWidth b = 0
  · exact .inl ⟨h, if_pos h⟩
  · exact .inr ⟨h, if_neg h⟩

/-- Under the reference configuration a word quotient and remainder fill LO and HI by sign-extension (R109, R110). -/
theorem quotientHiLo_word (q r : Int) :
    quotientHiLo .word q r = ⟨sextWord (BitVec.ofInt 32 r), sextWord (BitVec.ofInt 32 q)⟩ := by
  simp [quotientHiLo, lowWord_ofInt]

/-- Everything DIV does under the reference configuration: DIV0 on a zero divisor, DIV_OVF on -2^31 / -1, else quotient
and remainder (R109, R111, R112). -/
theorem handleDiv_reference (rs rt : RegIdx) (s : State) :
    handleDiv referenceConfig rs rt s = .ok (s.setHiLo (
      if (s.readWord rt).toInt = 0 then div0Fill .signed (sextWord (s.readWord rs)) ⟨s.hi, s.lo⟩
      else if (s.readWord rs).toInt = -2147483648 ∧ (s.readWord rt).toInt = -1 then divOvfWrap
      else quotientHiLo .word ((s.readWord rs).toInt.tdiv (s.readWord rt).toInt)
        ((s.readWord rs).toInt - (s.readWord rs).toInt.tdiv (s.readWord rt).toInt * (s.readWord rt).toInt))) := by
  have hl : viewLeast referenceConfig.divWidth = -2147483648 := by decide
  rcases divideSigned_cases referenceConfig (s.reg rs) (s.reg rt) ⟨s.hi, s.lo⟩ with ⟨h, e⟩ | ⟨h, g, e⟩ | ⟨h, g, e⟩ <;>
    refine congrArg (fun p => Except.ok (s.setHiLo p)) (e.trans ?_)
  · exact (if_pos h).symm
  · rw [hl] at g
    exact ((if_neg h).trans (if_pos g)).symm
  · rw [hl] at g
    exact ((if_neg h).trans (if_neg g)).symm

/-- Everything DIVU does under the reference configuration (R110, R111). -/
theorem handleDivu_reference (rs rt : RegIdx) (s : State) :
    handleDivu referenceConfig rs rt s = .ok (s.setHiLo (
      if (s.readWord rt).toNat = 0 then div0Fill .unsigned (sextWord (s.readWord rs)) ⟨s.hi, s.lo⟩
      else quotientHiLo .word ((s.readWord rs).toNat / (s.readWord rt).toNat : Nat)
        ((s.readWord rs).toNat - (s.readWord rs).toNat / (s.readWord rt).toNat * (s.readWord rt).toNat : Nat))) := by
  rcases divideUnsigned_cases referenceConfig (s.reg rs) (s.reg rt) ⟨s.hi, s.lo⟩ with ⟨h, e⟩ | ⟨h, e⟩ <;>
    refine congrArg (fun p => Except.ok (s.setHiLo p)) (e.trans ?_)
  · exact (if_pos h).symm
  · exact (if_neg h).symm

/-- A word shift always completes, with the shifted low word sign-extended in `rd` (R70). -/
theorem wordShift_reference (f : Word → Nat → Word) (rd rt : RegIdx) (n : Nat) (s : State) :
    wordShift referenceConfig f rd rt n s = .ok (s.setReg rd (sextWord (f (s.readWord rt) n))) := rfl

/-- A doubleword shift always completes, with the shifted low dword sign-extended in `rd` (R77). -/
theorem dwordShift_reference (f : Dword → Nat → Dword) (rd rt : RegIdx) (n : Nat) (s : State) :
    dwordShift referenceConfig f rd rt n s = .ok (s.setReg rd (sextDword (f (s.readDword rt) n))) := rfl

/-- A conditional move answers the copy or the state as it was (R95). -/
theorem moveIf_cases (c : Config) (cond : Bool) (rd rs : RegIdx) (s : State) :
    (cond = true ∧ moveIf c cond rd rs s = .ok (s.writeQword c rd (s.reg rs))) ∨
    (cond = false ∧ moveIf c cond rd rs s = .ok s) := by
  cases cond
  · exact .inr ⟨rfl, rfl⟩
  · exact .inl ⟨rfl, rfl⟩

/-- A trapping word form faults exactly on overflow, before any write (R115). -/
theorem trappingWord_cases (c : Config) (op : OverflowOp) (ov : Bool) (rd : RegIdx) (r : Word) (s : State) :
    (ov = true ∧ trappingWord c op ov rd r s = .error (.arithmeticOverflow op)) ∨
    (ov = false ∧ trappingWord c op ov rd r s = .ok (s.writeWord c rd r)) := by
  cases ov
  · exact .inr ⟨rfl, rfl⟩
  · exact .inl ⟨rfl, rfl⟩

/-- A trapping doubleword form faults exactly on overflow, before any write (R115). -/
theorem trappingDword_cases (c : Config) (op : OverflowOp) (ov : Bool) (rd : RegIdx) (r : Dword) (s : State) :
    (ov = true ∧ trappingDword c op ov rd r s = .error (.arithmeticOverflow op)) ∨
    (ov = false ∧ trappingDword c op ov rd r s = .ok (s.writeDword c rd r)) := by
  cases ov
  · exact .inr ⟨rfl, rfl⟩
  · exact .inl ⟨rfl, rfl⟩

/-- A trap faults with its kind and indices exactly when its condition holds, and else does nothing (R135). -/
theorem trapIf_cases (c : Config) (k : TrapKind) (rs rt : RegIdx) (s : State) :
    (trapHolds c.trapView k (s.reg rs) (s.reg rt) = true ∧ trapIf c k rs rt s = .error (.trap k rs rt)) ∨
    (trapHolds c.trapView k (s.reg rs) (s.reg rt) = false ∧ trapIf c k rs rt s = .ok s) := by
  unfold trapIf
  cases trapHolds c.trapView k (s.reg rs) (s.reg rt)
  · exact .inr ⟨rfl, rfl⟩
  · exact .inl ⟨rfl, rfl⟩

/-- The meaning of every instruction is its handler under the reference configuration. -/
theorem exec_eq_handle (i : Instr) (s : State) : exec i s = outcomeOf (handle referenceConfig i s) := by
  cases i <;> rfl

theorem exec_next_iff (i : Instr) (s t : State) : exec i s = .next t ↔ handle referenceConfig i s = .ok t := by
  rw [exec_eq_handle]
  cases handle referenceConfig i s <;> simp [outcomeOf]

theorem exec_fault_iff (i : Instr) (s : State) (f : Fault) :
    exec i s = .fault f ↔ handle referenceConfig i s = .error f := by
  rw [exec_eq_handle]
  cases handle referenceConfig i s <;> simp [outcomeOf]

/-- A call of the core answers `Ok` with the dispatched handler's state, or a fault with the state unchanged (R31, R32). -/
theorem execute_cases (c : Config) (w : Word) (s : State) :
    (∃ t, dispatchWord c w s = .ok t ∧ execute c w s = (t, .ok)) ∨
    (∃ f, dispatchWord c w s = .error f ∧ execute c w s = (s, .fault f)) := by
  unfold execute
  cases h : dispatchWord c w s with
  | ok t => exact .inl ⟨t, rfl, rfl⟩
  | error f => exact .inr ⟨f, rfl, rfl⟩

/-- Driver S on a fetched word: on from the handler's state, or disposed of with only the counters advanced (R166, R169). -/
theorem driveWordS_cases (c : Config) (w : Word) (s : State) :
    (∃ t, dispatchWord c w s.advance = .ok t ∧ driveWordS c w s = .running t) ∨
    (∃ f, dispatchWord c w s.advance = .error f ∧ driveWordS c w s = dispose c (.fault f) s.advance) := by
  rcases execute_cases c w s.advance with ⟨t, h, he⟩ | ⟨f, h, he⟩
  · exact .inl ⟨t, h, by simp [driveWordS, he, dispose]⟩
  · exact .inr ⟨f, h, by simp [driveWordS, he]⟩

/-- Everything `step` can do: refuse the fetch, or run the fetched word under driver S. -/
theorem step_cases (s : State) :
    (∃ r, fetchAtPc referenceConfig s = .error r ∧ step s = .refused r) ∨
    (∃ w, fetchAtPc referenceConfig s = .ok w ∧
      ((∃ t, dispatchWord referenceConfig w s.advance = .ok t ∧ step s = .next t) ∨
       (∃ f, dispatchWord referenceConfig w s.advance = .error f ∧ step s = .fault f))) := by
  unfold step drive
  cases h : fetchAtPc referenceConfig s with
  | error r => exact .inl ⟨r, rfl, rfl⟩
  | ok w =>
    refine .inr ⟨w, rfl, ?_⟩
    rcases driveWordS_cases referenceConfig w s with ⟨t, hd, he⟩ | ⟨f, hd, he⟩
    · exact .inl ⟨t, hd, by simp [he, stepOutcome]⟩
    · exact .inr ⟨f, hd, by simp [he, dispose, stepOutcome]⟩

/-- A dispatched word is either an instruction's handler or the dispatcher's own fault (R54, R55). -/
theorem dispatchWord_cases (c : Config) (w : Word) (s : State) :
    (∃ i, decodeWith c.encoding w = .ok i ∧ dispatchWord c w s = handle c i s) ∨
    (∃ r, decodeWith c.encoding w = .error r ∧ dispatchWord c w s = .error (faultOfReject r)) := by
  unfold dispatchWord
  cases h : decodeWith c.encoding w with
  | ok i => exact .inl ⟨i, rfl, rfl⟩
  | error r => exact .inr ⟨r, rfl, rfl⟩

end Sys2Proof.Machine
end

