-- ==== Sys2Proof/Laws/Frame.lean ====
section
/-! SUPPORT. The frame of each state update, as `SameExcept`: what the frame statements about instructions are assembled from; and
the fields of a state with its registers permuted. -/

namespace Sys2Proof.Machine

theorem sameExcept_refl (ls : List Loc) (s : State) : SameExcept ls s s :=
  ⟨fun _ _ => rfl, fun _ => rfl, fun _ => rfl, fun _ => rfl, fun _ => rfl, fun _ => rfl, rfl, fun _ => rfl⟩

theorem sameExcept_trans (ls : List Loc) (s t u : State) (h : SameExcept ls s t) (h' : SameExcept ls t u) :
    SameExcept ls s u := by
  obtain ⟨a, b, c, d, u, e, f, g⟩ := h
  obtain ⟨a', b', c', d', u', e', f', g'⟩ := h'
  exact ⟨fun j hj => (a' j hj).trans (a j hj), fun k => (b' k).trans (b k), fun k => (c' k).trans (c k),
    fun k => (d' k).trans (d k), fun k => (u' k).trans (u k), fun k => (e' k).trans (e k), f'.trans f,
    fun k => (g' k).trans (g k)⟩

theorem sameExcept_setReg (ls : List Loc) (s : State) (i : RegIdx) (v : Qword) (h : Loc.gpr i ∈ ls) :
    SameExcept ls s (s.setReg i v) := by
  refine ⟨fun j hj => setReg_reg_ne s i j v ?_, fun _ => rfl, fun _ => rfl, fun _ => rfl, fun _ => rfl, fun _ => rfl, rfl, fun _ => rfl⟩
  rintro rfl
  exact hj h

theorem sameExcept_writeQword (ls : List Loc) (c : Config) (s : State) (i : RegIdx) (v : Qword) (h : Loc.gpr i ∈ ls) :
    SameExcept ls s (s.writeQword c i v) := by
  rcases writeQword_cases c s i v with e | ⟨_, _, e⟩ <;> rw [e]
  · exact sameExcept_setReg ls s i v h
  · exact sameExcept_refl ls s

theorem sameExcept_setHi (ls : List Loc) (s : State) (v : Qword) (h : Loc.hi ∈ ls) : SameExcept ls s (s.setHi v) :=
  ⟨fun _ _ => rfl, fun k => absurd h k, fun _ => rfl, fun _ => rfl, fun _ => rfl, fun _ => rfl, rfl, fun _ => rfl⟩

theorem sameExcept_setLo (ls : List Loc) (s : State) (v : Qword) (h : Loc.lo ∈ ls) : SameExcept ls s (s.setLo v) :=
  ⟨fun _ _ => rfl, fun _ => rfl, fun k => absurd h k, fun _ => rfl, fun _ => rfl, fun _ => rfl, rfl, fun _ => rfl⟩

theorem sameExcept_setHiLo (ls : List Loc) (s : State) (p : HiLo) (h : Loc.hi ∈ ls) (h' : Loc.lo ∈ ls) :
    SameExcept ls s (s.setHiLo p) :=
  ⟨fun _ _ => rfl, fun k => absurd h k, fun k => absurd h' k, fun _ => rfl, fun _ => rfl, fun _ => rfl, rfl, fun _ => rfl⟩

theorem sameExcept_setSa (ls : List Loc) (s : State) (v : Dword) (h : Loc.sa ∈ ls) : SameExcept ls s (s.setSa v) :=
  ⟨fun _ _ => rfl, fun _ => rfl, fun _ => rfl, fun k => absurd h k, fun _ => rfl, fun _ => rfl, rfl, fun _ => rfl⟩

theorem sameExcept_setSaUpper (ls : List Loc) (s : State) (v : Dword) (h : Loc.saUpper ∈ ls) :
    SameExcept ls s (s.setSaUpper v) :=
  ⟨fun _ _ => rfl, fun _ => rfl, fun _ => rfl, fun _ => rfl, fun k => absurd h k, fun _ => rfl, rfl, fun _ => rfl⟩

theorem sameExcept_setNpc (ls : List Loc) (s : State) (v : Word) (h : Loc.npc ∈ ls) : SameExcept ls s (s.setNpc v) :=
  ⟨fun _ _ => rfl, fun _ => rfl, fun _ => rfl, fun _ => rfl, fun _ => rfl, fun k => absurd h k, rfl, fun _ => rfl⟩

theorem sameExcept_writeHi (ls : List Loc) (c : Config) (s : State) (v : Qword) (h : Loc.hi ∈ ls) :
    SameExcept ls s (s.writeHi c v) := sameExcept_setHi ls s _ h

theorem sameExcept_writeLo (ls : List Loc) (c : Config) (s : State) (v : Qword) (h : Loc.lo ∈ ls) :
    SameExcept ls s (s.writeLo c v) := sameExcept_setLo ls s _ h

theorem sameExcept_writeHiLo (ls : List Loc) (c : Config) (s : State) (p : HiLo) (h : Loc.hi ∈ ls) (h' : Loc.lo ∈ ls) :
    SameExcept ls s (s.writeHiLo c p) := sameExcept_setHiLo ls s _ h h'

theorem sameExcept_writeSa (ls : List Loc) (c : Config) (s : State) (v : Qword) (h : Loc.sa ∈ ls) (h' : Loc.saUpper ∈ ls) :
    SameExcept ls s (s.writeSa c v) :=
  sameExcept_trans ls _ _ _ (sameExcept_setSa ls s _ h) (sameExcept_setSaUpper ls _ _ h')

/-- A write of an SA of at most 64 bits leaves the room for a wider one as it was. -/
theorem sameExcept_writeSa_of_ne (ls : List Loc) (c : Config) (s : State) (v : Qword) (h : Loc.sa ∈ ls)
    (hw : c.saWidth ≠ .qword) : SameExcept ls s (s.writeSa c v) := by
  have hs : s.writeSa c v = s.setSa (saLow c.saWidth v) := by
    unfold State.writeSa saHigh
    cases e : c.saWidth
    · rfl
    · rfl
    · exact absurd e hw
  rw [hs]
  exact sameExcept_setSa ls s _ h

@[simp] theorem permuteRegs_reg (g : RegIdx → RegIdx) (s : State) (j : RegIdx) : (permuteRegs g s).reg j = s.reg (g j) := by
  simp [permuteRegs, State.reg]
@[simp] theorem permuteRegs_hi (g : RegIdx → RegIdx) (s : State) : (permuteRegs g s).hi = s.hi := by unfold permuteRegs; rfl
@[simp] theorem permuteRegs_lo (g : RegIdx → RegIdx) (s : State) : (permuteRegs g s).lo = s.lo := by unfold permuteRegs; rfl
@[simp] theorem permuteRegs_sa (g : RegIdx → RegIdx) (s : State) : (permuteRegs g s).sa = s.sa := by unfold permuteRegs; rfl
@[simp] theorem permuteRegs_saUpper (g : RegIdx → RegIdx) (s : State) : (permuteRegs g s).saUpper = s.saUpper := by
  unfold permuteRegs; rfl
@[simp] theorem permuteRegs_pc (g : RegIdx → RegIdx) (s : State) : (permuteRegs g s).pc = s.pc := by unfold permuteRegs; rfl
@[simp] theorem permuteRegs_npc (g : RegIdx → RegIdx) (s : State) : (permuteRegs g s).npc = s.npc := by unfold permuteRegs; rfl
@[simp] theorem permuteRegs_text (g : RegIdx → RegIdx) (s : State) : (permuteRegs g s).text = s.text := by
  unfold permuteRegs; rfl

/-- Permuting the registers after a register write is the write, at the renamed index, after permuting. -/
theorem permuteRegs_setReg (f g : RegIdx → RegIdx) (hgf : ∀ i, g (f i) = i) (hfg : ∀ i, f (g i) = i) (s : State)
    (i : RegIdx) (v : Qword) : permuteRegs g (s.setReg i v) = (permuteRegs g s).setReg (f i) v := by
  refine state_ext _ _ (fun j => ?_) (by simp) (by simp) (by simp) (by simp) (by simp) (by simp) (by simp)
  rw [permuteRegs_reg, setReg_reg, setReg_reg, permuteRegs_reg]
  by_cases h : i = g j
  · simp [h, hfg]
  · rw [if_neg h, if_neg]
    rintro rfl
    exact h (hgf i).symm

end Sys2Proof.Machine
end

