-- ==== Sys2Proof/Laws/Memory.lean ====
section
/-! SUPPORT. The program text: a byte reads back after a write, other bytes are untouched, and every operation keeps the canonical form. -/

namespace Sys2Proof.Machine

/-- Reading a byte after a write: the new value at the address, the old one elsewhere. -/
theorem readByte_writeByte (m : List Host.Cell) (a b : Nat) (v : Byte) :
    readByte (writeByte m a v) b = if a = b then some v else readByte m b := by
  induction m with
  | nil => simp [writeByte, readByte]
  | cons p m ih =>
    obtain ⟨x, y⟩ := p
    by_cases h1 : a < x
    · simp [writeByte, h1, readByte]
    · by_cases h2 : a = x
      · subst h2
        by_cases h3 : a = b <;> simp [writeByte, readByte, h3]
      · by_cases h3 : x = b
        · subst h3
          simp [writeByte, h1, h2, readByte]
        · simp [writeByte, h1, h2, readByte, h3, ih]

theorem mem_writeByte (m : List Host.Cell) (a : Nat) (v : Byte) (p : Host.Cell) (h : p ∈ writeByte m a v) :
    p = (a, v) ∨ p ∈ m := by
  induction m with
  | nil => simpa [writeByte] using h
  | cons q m ih =>
    obtain ⟨x, y⟩ := q
    unfold writeByte at h
    split at h
    · simpa using h
    · split at h
      · rcases List.mem_cons.mp h with h | h
        · exact .inl h
        · exact .inr (List.mem_cons_of_mem _ h)
      · rcases List.mem_cons.mp h with h | h
        · exact .inr (h ▸ List.mem_cons_self ..)
        · exact (ih h).imp id (List.mem_cons_of_mem _)

theorem writeByte_pairwise (m : List Host.Cell) (a : Nat) (v : Byte) (h : m.Pairwise fun p q => p.1 < q.1) :
    (writeByte m a v).Pairwise fun p q => p.1 < q.1 := by
  induction m with
  | nil => simp [writeByte]
  | cons q m ih =>
    obtain ⟨x, y⟩ := q
    rw [List.pairwise_cons] at h
    unfold writeByte
    split
    · rename_i hax
      refine List.pairwise_cons.mpr ⟨fun p hp => ?_, List.pairwise_cons.mpr h⟩
      rcases List.mem_cons.mp hp with rfl | hp
      · exact hax
      · exact lt_trans hax (h.1 p hp)
    · split
      · rename_i _ hax
        subst hax
        exact List.pairwise_cons.mpr ⟨h.1, h.2⟩
      · rename_i h1 h2
        refine List.pairwise_cons.mpr ⟨fun p hp => ?_, ih h.2⟩
        rcases mem_writeByte m a v p hp with rfl | hp
        · show x < a
          omega
        · exact h.1 p hp

/-- Writing a byte inside the address space keeps the canonical form. -/
theorem wf_writeByte (m : List Host.Cell) (a : Nat) (v : Byte) (ha : a < 2 ^ 32) (h : Memory.wf m = true) :
    Memory.wf (writeByte m a v) = true := by
  simp only [Memory.wf, Bool.and_eq_true, decide_eq_true_eq, List.all_eq_true] at h ⊢
  refine ⟨writeByte_pairwise m a v h.1, fun p hp => ?_⟩
  rcases mem_writeByte m a v p hp with rfl | hp
  · simpa using ha
  · exact h.2 p hp

/-- Placing a word keeps the canonical form. -/
theorem wf_placeWord (o : ByteOrder) (m : List Host.Cell) (a w : Word) (h : Memory.wf m = true) :
    Memory.wf (placeWord o m a w) = true := by
  unfold placeWord
  exact wf_writeByte _ _ _ (BitVec.isLt _) (wf_writeByte _ _ _ (BitVec.isLt _)
    (wf_writeByte _ _ _ (BitVec.isLt _) (wf_writeByte _ _ _ (BitVec.isLt _) h)))

/-- Placing a program keeps the canonical form. -/
theorem wf_placeProgram (o : ByteOrder) (ws : List Word) (m : List Host.Cell) (a : Word) (h : Memory.wf m = true) :
    Memory.wf (placeProgram o m a ws) = true := by
  induction ws generalizing m a with
  | nil => exact h
  | cons w ws ih => exact ih _ _ (wf_placeWord o m a w h)

/-- The text after reset is canonical. -/
theorem wf_reset : Memory.wf State.reset.text = true := by decide

/-- Storing an instruction where the next step fetches keeps the canonical form. -/
theorem wf_withFetchWord (s : State) (nbits w : Nat) (h : Memory.wf s.text = true) :
    Memory.wf (s.withFetchWord nbits w).text = true :=
  wf_placeWord _ _ _ _ h

end Sys2Proof.Machine
end

