-- ==== Sys2Proof/Laws/PerInstr.lean ====
section
/-! SUPPORT. Families of lemmas about every instruction as syntax, one lemma per constructor of `Instr` (LAWS.json). -/

namespace Sys2Proof.Laws

/-- The 5-bit field of a register index names that register. -/
theorem regOfNat_val (i : RegIdx) : regOfNat i.val = i := by
  apply Fin.ext
  have := i.isLt
  simp only [regOfNat, regOfBits, BitVec.toFin_ofNat, Fin.ofNat_eq_cast, Fin.val_natCast]
  omega

/-- A shift amount is the number it is written as. -/
theorem shAmtOfNat_toNat (k : ShAmt) : BitVec.ofNat 5 k.toNat = k := by simp

/-- The family: the assembler term of an instruction (spec/30_encoding.md R63) is well-formed and assembles to it. -/
def AsmRoundTrip.Statement (i : Instr) : Prop := i.wellFormed = true ∧ assemble i.toAsm = some i

/-- A term with the operands of its form, all in range, is well-formed and assembles to the instruction of its fields. -/
theorem assemble_of_fields (op : Op) (ns : List Nat) (f : Fields) (ha : ns.length = op.form.arity)
    (hr : ∀ n ∈ ns, n < 32) (hf : formFields standardEncoding op.form ns = some f) :
    AsmTerm.wellFormed ⟨op, ns⟩ = true ∧ assemble ⟨op, ns⟩ = some (instrOfFields standardEncoding f op) := by
  have h : AsmTerm.wellFormed ⟨op, ns⟩ = true := by
    simpa [AsmTerm.wellFormed, AsmTerm.arityOk, AsmTerm.rangeOk, ha] using hr
  refine ⟨h, ?_⟩
  rw [assemble, if_pos h]
  simp only [hf]

theorem assemble_shiftFixed (op : Op) (h : op.form = .shiftFixed) (rd : RegIdx) (rt : RegIdx) (sa : ShAmt) :
    AsmTerm.wellFormed ⟨op, [rd.val, rt.val, sa.toNat]⟩ = true ∧
      assemble ⟨op, [rd.val, rt.val, sa.toNat]⟩ = some (instrOfFields standardEncoding { zeroFields with rd := rd, rt := rt, sa := sa } op) := by
  refine assemble_of_fields op _ _ (by rw [h]; rfl) (by intro n hn; simp at hn; omega) ?_
  rw [h]
  simp [formFields, regOfNat_val]

theorem assemble_shiftVar (op : Op) (h : op.form = .shiftVar) (rd : RegIdx) (rt : RegIdx) (rs : RegIdx) :
    AsmTerm.wellFormed ⟨op, [rd.val, rt.val, rs.val]⟩ = true ∧
      assemble ⟨op, [rd.val, rt.val, rs.val]⟩ = some (instrOfFields standardEncoding { zeroFields with rd := rd, rt := rt, rs := rs } op) := by
  refine assemble_of_fields op _ _ (by rw [h]; rfl) (by intro n hn; simp at hn; omega) ?_
  rw [h]
  simp [formFields, regOfNat_val]

theorem assemble_target (op : Op) (h : op.form = .target) (rs : RegIdx) :
    AsmTerm.wellFormed ⟨op, [rs.val]⟩ = true ∧
      assemble ⟨op, [rs.val]⟩ = some (instrOfFields standardEncoding { zeroFields with rs := rs } op) := by
  refine assemble_of_fields op _ _ (by rw [h]; rfl) (by intro n hn; simp at hn; omega) ?_
  rw [h]
  simp [formFields, regOfNat_val]

theorem assemble_link (op : Op) (h : op.form = .link) (rd : RegIdx) (rs : RegIdx) :
    AsmTerm.wellFormed ⟨op, [rd.val, rs.val]⟩ = true ∧
      assemble ⟨op, [rd.val, rs.val]⟩ = some (instrOfFields standardEncoding { zeroFields with rd := rd, rs := rs } op) := by
  refine assemble_of_fields op _ _ (by rw [h]; rfl) (by intro n hn; simp at hn; omega) ?_
  rw [h]
  simp [formFields, regOfNat_val]

theorem assemble_three (op : Op) (h : op.form = .three) (rd : RegIdx) (rs : RegIdx) (rt : RegIdx) :
    AsmTerm.wellFormed ⟨op, [rd.val, rs.val, rt.val]⟩ = true ∧
      assemble ⟨op, [rd.val, rs.val, rt.val]⟩ = some (instrOfFields standardEncoding { zeroFields with rd := rd, rs := rs, rt := rt } op) := by
  refine assemble_of_fields op _ _ (by rw [h]; rfl) (by intro n hn; simp at hn; omega) ?_
  rw [h]
  simp [formFields, regOfNat_val]

theorem assemble_moveFrom (op : Op) (h : op.form = .moveFrom) (rd : RegIdx) :
    AsmTerm.wellFormed ⟨op, [rd.val]⟩ = true ∧
      assemble ⟨op, [rd.val]⟩ = some (instrOfFields standardEncoding (withFieldReg .rd rd) op) := by
  refine assemble_of_fields op _ _ (by rw [h]; rfl) (by intro n hn; simp at hn; omega) ?_
  rw [h]
  simp [formFields, regOfNat_val, standardEncoding]

theorem assemble_moveTo (op : Op) (h : op.form = .moveTo) (rs : RegIdx) :
    AsmTerm.wellFormed ⟨op, [rs.val]⟩ = true ∧
      assemble ⟨op, [rs.val]⟩ = some (instrOfFields standardEncoding (withFieldReg .rs rs) op) := by
  refine assemble_of_fields op _ _ (by rw [h]; rfl) (by intro n hn; simp at hn; omega) ?_
  rw [h]
  simp [formFields, regOfNat_val, standardEncoding]

theorem assemble_pair (op : Op) (h : op.form = .pair) (rs : RegIdx) (rt : RegIdx) :
    AsmTerm.wellFormed ⟨op, [rs.val, rt.val]⟩ = true ∧
      assemble ⟨op, [rs.val, rt.val]⟩ = some (instrOfFields standardEncoding { zeroFields with rs := rs, rt := rt } op) := by
  refine assemble_of_fields op _ _ (by rw [h]; rfl) (by intro n hn; simp at hn; omega) ?_
  rw [h]
  simp [formFields, regOfNat_val]

theorem AsmRoundTrip.sll (rd : RegIdx) (rt : RegIdx) (sa : ShAmt) : AsmRoundTrip.Statement (.sll rd rt sa) :=
  assemble_shiftFixed .sll rfl rd rt sa

theorem AsmRoundTrip.srl (rd : RegIdx) (rt : RegIdx) (sa : ShAmt) : AsmRoundTrip.Statement (.srl rd rt sa) :=
  assemble_shiftFixed .srl rfl rd rt sa

theorem AsmRoundTrip.sra (rd : RegIdx) (rt : RegIdx) (sa : ShAmt) : AsmRoundTrip.Statement (.sra rd rt sa) :=
  assemble_shiftFixed .sra rfl rd rt sa

theorem AsmRoundTrip.sllv (rd : RegIdx) (rt : RegIdx) (rs : RegIdx) : AsmRoundTrip.Statement (.sllv rd rt rs) :=
  assemble_shiftVar .sllv rfl rd rt rs

theorem AsmRoundTrip.srlv (rd : RegIdx) (rt : RegIdx) (rs : RegIdx) : AsmRoundTrip.Statement (.srlv rd rt rs) :=
  assemble_shiftVar .srlv rfl rd rt rs

theorem AsmRoundTrip.srav (rd : RegIdx) (rt : RegIdx) (rs : RegIdx) : AsmRoundTrip.Statement (.srav rd rt rs) :=
  assemble_shiftVar .srav rfl rd rt rs

theorem AsmRoundTrip.jr (rs : RegIdx) : AsmRoundTrip.Statement (.jr rs) :=
  assemble_target .jr rfl rs

theorem AsmRoundTrip.jalr (rd : RegIdx) (rs : RegIdx) : AsmRoundTrip.Statement (.jalr rd rs) :=
  assemble_link .jalr rfl rd rs

theorem AsmRoundTrip.movz (rd : RegIdx) (rs : RegIdx) (rt : RegIdx) : AsmRoundTrip.Statement (.movz rd rs rt) :=
  assemble_three .movz rfl rd rs rt

theorem AsmRoundTrip.movn (rd : RegIdx) (rs : RegIdx) (rt : RegIdx) : AsmRoundTrip.Statement (.movn rd rs rt) :=
  assemble_three .movn rfl rd rs rt

theorem AsmRoundTrip.syscall : AsmRoundTrip.Statement .syscall := ⟨rfl, rfl⟩

theorem AsmRoundTrip.brk : AsmRoundTrip.Statement .brk := ⟨rfl, rfl⟩

theorem AsmRoundTrip.sync : AsmRoundTrip.Statement .sync := ⟨rfl, rfl⟩

theorem AsmRoundTrip.mfhi (rd : RegIdx) : AsmRoundTrip.Statement (.mfhi rd) :=
  assemble_moveFrom .mfhi rfl rd

theorem AsmRoundTrip.mthi (rs : RegIdx) : AsmRoundTrip.Statement (.mthi rs) :=
  assemble_moveTo .mthi rfl rs

theorem AsmRoundTrip.mflo (rd : RegIdx) : AsmRoundTrip.Statement (.mflo rd) :=
  assemble_moveFrom .mflo rfl rd

theorem AsmRoundTrip.mtlo (rs : RegIdx) : AsmRoundTrip.Statement (.mtlo rs) :=
  assemble_moveTo .mtlo rfl rs

theorem AsmRoundTrip.dsllv (rd : RegIdx) (rt : RegIdx) (rs : RegIdx) : AsmRoundTrip.Statement (.dsllv rd rt rs) :=
  assemble_shiftVar .dsllv rfl rd rt rs

theorem AsmRoundTrip.dsrlv (rd : RegIdx) (rt : RegIdx) (rs : RegIdx) : AsmRoundTrip.Statement (.dsrlv rd rt rs) :=
  assemble_shiftVar .dsrlv rfl rd rt rs

theorem AsmRoundTrip.dsrav (rd : RegIdx) (rt : RegIdx) (rs : RegIdx) : AsmRoundTrip.Statement (.dsrav rd rt rs) :=
  assemble_shiftVar .dsrav rfl rd rt rs

theorem AsmRoundTrip.mult (rs : RegIdx) (rt : RegIdx) : AsmRoundTrip.Statement (.mult rs rt) :=
  assemble_pair .mult rfl rs rt

theorem AsmRoundTrip.multu (rs : RegIdx) (rt : RegIdx) : AsmRoundTrip.Statement (.multu rs rt) :=
  assemble_pair .multu rfl rs rt

theorem AsmRoundTrip.div (rs : RegIdx) (rt : RegIdx) : AsmRoundTrip.Statement (.div rs rt) :=
  assemble_pair .div rfl rs rt

theorem AsmRoundTrip.divu (rs : RegIdx) (rt : RegIdx) : AsmRoundTrip.Statement (.divu rs rt) :=
  assemble_pair .divu rfl rs rt

theorem AsmRoundTrip.add (rd : RegIdx) (rs : RegIdx) (rt : RegIdx) : AsmRoundTrip.Statement (.add rd rs rt) :=
  assemble_three .add rfl rd rs rt

theorem AsmRoundTrip.addu (rd : RegIdx) (rs : RegIdx) (rt : RegIdx) : AsmRoundTrip.Statement (.addu rd rs rt) :=
  assemble_three .addu rfl rd rs rt

theorem AsmRoundTrip.sub (rd : RegIdx) (rs : RegIdx) (rt : RegIdx) : AsmRoundTrip.Statement (.sub rd rs rt) :=
  assemble_three .sub rfl rd rs rt

theorem AsmRoundTrip.subu (rd : RegIdx) (rs : RegIdx) (rt : RegIdx) : AsmRoundTrip.Statement (.subu rd rs rt) :=
  assemble_three .subu rfl rd rs rt

theorem AsmRoundTrip.and (rd : RegIdx) (rs : RegIdx) (rt : RegIdx) : AsmRoundTrip.Statement (.and rd rs rt) :=
  assemble_three .and rfl rd rs rt

theorem AsmRoundTrip.or (rd : RegIdx) (rs : RegIdx) (rt : RegIdx) : AsmRoundTrip.Statement (.or rd rs rt) :=
  assemble_three .or rfl rd rs rt

theorem AsmRoundTrip.xor (rd : RegIdx) (rs : RegIdx) (rt : RegIdx) : AsmRoundTrip.Statement (.xor rd rs rt) :=
  assemble_three .xor rfl rd rs rt

theorem AsmRoundTrip.nor (rd : RegIdx) (rs : RegIdx) (rt : RegIdx) : AsmRoundTrip.Statement (.nor rd rs rt) :=
  assemble_three .nor rfl rd rs rt

theorem AsmRoundTrip.mfsa (rd : RegIdx) : AsmRoundTrip.Statement (.mfsa rd) :=
  assemble_moveFrom .mfsa rfl rd

theorem AsmRoundTrip.mtsa (rs : RegIdx) : AsmRoundTrip.Statement (.mtsa rs) :=
  assemble_moveTo .mtsa rfl rs

theorem AsmRoundTrip.slt (rd : RegIdx) (rs : RegIdx) (rt : RegIdx) : AsmRoundTrip.Statement (.slt rd rs rt) :=
  assemble_three .slt rfl rd rs rt

theorem AsmRoundTrip.sltu (rd : RegIdx) (rs : RegIdx) (rt : RegIdx) : AsmRoundTrip.Statement (.sltu rd rs rt) :=
  assemble_three .sltu rfl rd rs rt

theorem AsmRoundTrip.dadd (rd : RegIdx) (rs : RegIdx) (rt : RegIdx) : AsmRoundTrip.Statement (.dadd rd rs rt) :=
  assemble_three .dadd rfl rd rs rt

theorem AsmRoundTrip.daddu (rd : RegIdx) (rs : RegIdx) (rt : RegIdx) : AsmRoundTrip.Statement (.daddu rd rs rt) :=
  assemble_three .daddu rfl rd rs rt

theorem AsmRoundTrip.dsub (rd : RegIdx) (rs : RegIdx) (rt : RegIdx) : AsmRoundTrip.Statement (.dsub rd rs rt) :=
  assemble_three .dsub rfl rd rs rt

theorem AsmRoundTrip.dsubu (rd : RegIdx) (rs : RegIdx) (rt : RegIdx) : AsmRoundTrip.Statement (.dsubu rd rs rt) :=
  assemble_three .dsubu rfl rd rs rt

theorem AsmRoundTrip.tge (rs : RegIdx) (rt : RegIdx) : AsmRoundTrip.Statement (.tge rs rt) :=
  assemble_pair .tge rfl rs rt

theorem AsmRoundTrip.tgeu (rs : RegIdx) (rt : RegIdx) : AsmRoundTrip.Statement (.tgeu rs rt) :=
  assemble_pair .tgeu rfl rs rt

theorem AsmRoundTrip.tlt (rs : RegIdx) (rt : RegIdx) : AsmRoundTrip.Statement (.tlt rs rt) :=
  assemble_pair .tlt rfl rs rt

theorem AsmRoundTrip.tltu (rs : RegIdx) (rt : RegIdx) : AsmRoundTrip.Statement (.tltu rs rt) :=
  assemble_pair .tltu rfl rs rt

theorem AsmRoundTrip.teq (rs : RegIdx) (rt : RegIdx) : AsmRoundTrip.Statement (.teq rs rt) :=
  assemble_pair .teq rfl rs rt

theorem AsmRoundTrip.tne (rs : RegIdx) (rt : RegIdx) : AsmRoundTrip.Statement (.tne rs rt) :=
  assemble_pair .tne rfl rs rt

theorem AsmRoundTrip.dsll (rd : RegIdx) (rt : RegIdx) (sa : ShAmt) : AsmRoundTrip.Statement (.dsll rd rt sa) :=
  assemble_shiftFixed .dsll rfl rd rt sa

theorem AsmRoundTrip.dsrl (rd : RegIdx) (rt : RegIdx) (sa : ShAmt) : AsmRoundTrip.Statement (.dsrl rd rt sa) :=
  assemble_shiftFixed .dsrl rfl rd rt sa

theorem AsmRoundTrip.dsra (rd : RegIdx) (rt : RegIdx) (sa : ShAmt) : AsmRoundTrip.Statement (.dsra rd rt sa) :=
  assemble_shiftFixed .dsra rfl rd rt sa

theorem AsmRoundTrip.dsll32 (rd : RegIdx) (rt : RegIdx) (sa : ShAmt) : AsmRoundTrip.Statement (.dsll32 rd rt sa) :=
  assemble_shiftFixed .dsll32 rfl rd rt sa

theorem AsmRoundTrip.dsrl32 (rd : RegIdx) (rt : RegIdx) (sa : ShAmt) : AsmRoundTrip.Statement (.dsrl32 rd rt sa) :=
  assemble_shiftFixed .dsrl32 rfl rd rt sa

theorem AsmRoundTrip.dsra32 (rd : RegIdx) (rt : RegIdx) (sa : ShAmt) : AsmRoundTrip.Statement (.dsra32 rd rt sa) :=
  assemble_shiftFixed .dsra32 rfl rd rt sa

end Sys2Proof.Laws
end

