-- ==== Sys2Proof/Tests/Slice0.lean ====
section
/-! SUPPORT. The author's own tests: the checks of WellFormed, one decoded word per constructor, one-step vectors of
spec/95_test_vectors.md (the V-… ids), the fetch path, and a witness for the hypotheses of every obligation that has some. -/

namespace Sys2Proof.Tests

open Sys2Proof Sys2Proof.Machine

/-- The named constants of spec/95_test_vectors.md. -/
abbrev vecA : Qword := 0x0123456789ABCDEFFEDCBA9876543210
abbrev vecB : Qword := 0xFFFF0000FFFF000000FF00FF00FF00FF
abbrev vecX : Qword := 0xDEADBEEFCAFEBABE1234567880000001
abbrev vecY : Qword := 0xDEADBEEFCAFEBABE8000000012345678
abbrev ones : Qword := 0xFFFFFFFFFFFFFFFFFFFFFFFFFFFFFFFF

/-- The reset state with some registers set. -/
def start (l : List (RegIdx × Qword)) : State := l.foldl (fun s p => s.setReg p.1 p.2) State.reset

/-- One call of the core completes and changes the state as `f` says, and nothing else. -/
abbrev OkTo (w : Word) (s : State) (f : State → State) : Prop := execute referenceConfig w s = (f s, .ok)

/-- One call of the core answers the fault with the state unchanged. -/
abbrev FaultsWith (w : Word) (s : State) (x : Fault) : Prop := execute referenceConfig w s = (s, .fault x)

/-- The state with words in the program text from address `a` on, and the counters there. -/
def loaded (s : State) (a : Word) (ws : List Word) : State :=
  ({ s with text := placeProgram .little s.text a ws }.setPc a).setNpc (a + 4)

/-! ## WellFormed: each check refuses an ill-formed term -/

theorem test_arity_refuses_missing_operand : AsmTerm.arityOk ⟨.add, [3, 1]⟩ = false := by decide
theorem test_range_refuses_operand_32 : AsmTerm.rangeOk ⟨.add, [3, 1, 32]⟩ = false := by decide
theorem test_wellFormed_refuses_extra_operand : AsmTerm.wellFormed ⟨.sync, [0]⟩ = false := by decide
theorem test_wellFormed_refuses_shift_amount_32 : AsmTerm.wellFormed ⟨.sll, [3, 2, 32]⟩ = false := by decide
theorem test_wellFormed_accepts_operand_31 : AsmTerm.wellFormed ⟨.sll, [31, 31, 31]⟩ = true := by decide
theorem test_assemble_refuses_ill_formed : assemble ⟨.jalr, [32, 1]⟩ = none := by decide
theorem test_assemble_orders_operands : assemble ⟨.sllv, [3, 2, 1]⟩ = some (.sllv 3 2 1) := by decide
theorem test_map_refuses_duplicate_funct : FunctMap.functsDistinct ((0x00, .srl) :: standardFunctMap) = false := by decide
theorem test_map_refuses_duplicate_operation : FunctMap.opsDistinct ((0x01, .sll) :: standardFunctMap) = false := by decide
theorem test_map_refuses_missing_operation : FunctMap.complete (standardFunctMap.drop 1) = false := by decide
theorem test_map_wellFormed_refuses_empty : FunctMap.wellFormed [] = false := by decide

/-! ## Decode: the word `000000 rs=1 rt=2 rd=3 sa=4 funct` of R51 and R56, one per constructor -/

theorem test_decode_sll : decode 0b000000_00001_00010_00011_00100_000000#32 = .ok (.sll 3 2 4) := by decide
theorem test_decode_srl : decode 0b000000_00001_00010_00011_00100_000010#32 = .ok (.srl 3 2 4) := by decide
theorem test_decode_sra : decode 0b000000_00001_00010_00011_00100_000011#32 = .ok (.sra 3 2 4) := by decide
theorem test_decode_sllv : decode 0b000000_00001_00010_00011_00100_000100#32 = .ok (.sllv 3 2 1) := by decide
theorem test_decode_srlv : decode 0b000000_00001_00010_00011_00100_000110#32 = .ok (.srlv 3 2 1) := by decide
theorem test_decode_srav : decode 0b000000_00001_00010_00011_00100_000111#32 = .ok (.srav 3 2 1) := by decide
theorem test_decode_jr : decode 0b000000_00001_00010_00011_00100_001000#32 = .ok (.jr 1) := by decide
theorem test_decode_jalr : decode 0b000000_00001_00010_00011_00100_001001#32 = .ok (.jalr 3 1) := by decide
theorem test_decode_movz : decode 0b000000_00001_00010_00011_00100_001010#32 = .ok (.movz 3 1 2) := by decide
theorem test_decode_movn : decode 0b000000_00001_00010_00011_00100_001011#32 = .ok (.movn 3 1 2) := by decide
theorem test_decode_syscall : decode 0b000000_00001_00010_00011_00100_001100#32 = .ok .syscall := by decide
theorem test_decode_brk : decode 0b000000_00001_00010_00011_00100_001101#32 = .ok .brk := by decide
theorem test_decode_sync : decode 0b000000_00001_00010_00011_00100_001111#32 = .ok .sync := by decide
theorem test_decode_mfhi : decode 0b000000_00001_00010_00011_00100_010000#32 = .ok (.mfhi 3) := by decide
theorem test_decode_mthi : decode 0b000000_00001_00010_00011_00100_010001#32 = .ok (.mthi 1) := by decide
theorem test_decode_mflo : decode 0b000000_00001_00010_00011_00100_010010#32 = .ok (.mflo 3) := by decide
theorem test_decode_mtlo : decode 0b000000_00001_00010_00011_00100_010011#32 = .ok (.mtlo 1) := by decide
theorem test_decode_dsllv : decode 0b000000_00001_00010_00011_00100_010100#32 = .ok (.dsllv 3 2 1) := by decide
theorem test_decode_dsrlv : decode 0b000000_00001_00010_00011_00100_010110#32 = .ok (.dsrlv 3 2 1) := by decide
theorem test_decode_dsrav : decode 0b000000_00001_00010_00011_00100_010111#32 = .ok (.dsrav 3 2 1) := by decide
theorem test_decode_mult : decode 0b000000_00001_00010_00011_00100_011000#32 = .ok (.mult 1 2) := by decide
theorem test_decode_multu : decode 0b000000_00001_00010_00011_00100_011001#32 = .ok (.multu 1 2) := by decide
theorem test_decode_div : decode 0b000000_00001_00010_00011_00100_011010#32 = .ok (.div 1 2) := by decide
theorem test_decode_divu : decode 0b000000_00001_00010_00011_00100_011011#32 = .ok (.divu 1 2) := by decide
theorem test_decode_add : decode 0b000000_00001_00010_00011_00100_100000#32 = .ok (.add 3 1 2) := by decide
theorem test_decode_addu : decode 0b000000_00001_00010_00011_00100_100001#32 = .ok (.addu 3 1 2) := by decide
theorem test_decode_sub : decode 0b000000_00001_00010_00011_00100_100010#32 = .ok (.sub 3 1 2) := by decide
theorem test_decode_subu : decode 0b000000_00001_00010_00011_00100_100011#32 = .ok (.subu 3 1 2) := by decide
theorem test_decode_and : decode 0b000000_00001_00010_00011_00100_100100#32 = .ok (.and 3 1 2) := by decide
theorem test_decode_or : decode 0b000000_00001_00010_00011_00100_100101#32 = .ok (.or 3 1 2) := by decide
theorem test_decode_xor : decode 0b000000_00001_00010_00011_00100_100110#32 = .ok (.xor 3 1 2) := by decide
theorem test_decode_nor : decode 0b000000_00001_00010_00011_00100_100111#32 = .ok (.nor 3 1 2) := by decide
theorem test_decode_mfsa : decode 0b000000_00001_00010_00011_00100_101000#32 = .ok (.mfsa 3) := by decide
theorem test_decode_mtsa : decode 0b000000_00001_00010_00011_00100_101001#32 = .ok (.mtsa 1) := by decide
theorem test_decode_slt : decode 0b000000_00001_00010_00011_00100_101010#32 = .ok (.slt 3 1 2) := by decide
theorem test_decode_sltu : decode 0b000000_00001_00010_00011_00100_101011#32 = .ok (.sltu 3 1 2) := by decide
theorem test_decode_dadd : decode 0b000000_00001_00010_00011_00100_101100#32 = .ok (.dadd 3 1 2) := by decide
theorem test_decode_daddu : decode 0b000000_00001_00010_00011_00100_101101#32 = .ok (.daddu 3 1 2) := by decide
theorem test_decode_dsub : decode 0b000000_00001_00010_00011_00100_101110#32 = .ok (.dsub 3 1 2) := by decide
theorem test_decode_dsubu : decode 0b000000_00001_00010_00011_00100_101111#32 = .ok (.dsubu 3 1 2) := by decide
theorem test_decode_tge : decode 0b000000_00001_00010_00011_00100_110000#32 = .ok (.tge 1 2) := by decide
theorem test_decode_tgeu : decode 0b000000_00001_00010_00011_00100_110001#32 = .ok (.tgeu 1 2) := by decide
theorem test_decode_tlt : decode 0b000000_00001_00010_00011_00100_110010#32 = .ok (.tlt 1 2) := by decide
theorem test_decode_tltu : decode 0b000000_00001_00010_00011_00100_110011#32 = .ok (.tltu 1 2) := by decide
theorem test_decode_teq : decode 0b000000_00001_00010_00011_00100_110100#32 = .ok (.teq 1 2) := by decide
theorem test_decode_tne : decode 0b000000_00001_00010_00011_00100_110110#32 = .ok (.tne 1 2) := by decide
theorem test_decode_dsll : decode 0b000000_00001_00010_00011_00100_111000#32 = .ok (.dsll 3 2 4) := by decide
theorem test_decode_dsrl : decode 0b000000_00001_00010_00011_00100_111010#32 = .ok (.dsrl 3 2 4) := by decide
theorem test_decode_dsra : decode 0b000000_00001_00010_00011_00100_111011#32 = .ok (.dsra 3 2 4) := by decide
theorem test_decode_dsll32 : decode 0b000000_00001_00010_00011_00100_111100#32 = .ok (.dsll32 3 2 4) := by decide
theorem test_decode_dsrl32 : decode 0b000000_00001_00010_00011_00100_111110#32 = .ok (.dsrl32 3 2 4) := by decide
theorem test_decode_dsra32 : decode 0b000000_00001_00010_00011_00100_111111#32 = .ok (.dsra32 3 2 4) := by decide

theorem test_decode_rejects_opcode : decode 0x24010001 = .error (.unimplementedOpcode 0x09) := by decide
theorem test_decode_rejects_funct : decode 0x0022181C = .error (.unimplementedFunction 0x1C) := by decide
/-- V-DEC-4: 0xAC8537F6 splits into opcode 0x2B, rs 4, rt 5, rd 6, sa 31, funct 0x36. -/
theorem test_decodeFields : decodeFields 0xAC8537F6 = ⟨0x2B, 4, 5, 6, 31, 0x36⟩ := by decide
/-- The encoder of R65 on instructions whose words spec/95_test_vectors.md gives. -/
theorem test_encode_add : encode (.add 3 1 2) = 0x00221820 := by decide
theorem test_encode_dsll32 : encode (.dsll32 3 2 31) = 0x00021FFC := by decide
theorem test_encode_jalr : encode (.jalr 31 1) = 0x0020F809 := by decide
theorem test_encode_mthi : encode (.mthi 1) = 0x00200011 := by decide
theorem test_decodeTableWord_drops_high_bits : decodeTableWord 32 0xFF00221820 = some (.add 3 1 2) := by decide

/-! ## One call of the core: the vectors of spec/95_test_vectors.md, each checking the whole state after -/

theorem test_v_sll_3 : OkTo 0x00021FC0 (start [(2, vecX)]) (·.setReg 3 0xFFFFFFFFFFFFFFFFFFFFFFFF80000000) := by decide
theorem test_v_sll_4 : OkTo 0x00021100 (start [(2, 0x12345678)]) (·.setReg 2 0x23456780) := by decide
theorem test_v_srl_1 : OkTo 0x00021802 (start [(2, vecX)]) (·.setReg 3 0xFFFFFFFFFFFFFFFFFFFFFFFF80000001) := by decide
theorem test_v_srl_2 : OkTo 0x00021842 (start [(2, vecX)]) (·.setReg 3 0x40000000) := by decide
theorem test_v_sra_1 : OkTo 0x00021843 (start [(2, vecX)]) (·.setReg 3 0xFFFFFFFFFFFFFFFFFFFFFFFFC0000000) := by decide
theorem test_v_sra_3 : OkTo 0x00021FC3 (start [(2, 0xFFFFFFFFFFFFFFFFFFFFFFFF7FFFFFFF)]) (·.setReg 3 0) := by decide
theorem test_v_sllv_1 : OkTo 0x00221804 (start [(1, 0xFFFFFFFFFFFFFFFFFFFFFFFFFFFFFFE4), (2, 0x12345678)]) (·.setReg 3 0x23456780) := by decide
theorem test_v_sllv_2 : OkTo 0x00221804 (start [(1, 0x20), (2, vecX)]) (·.setReg 3 0xFFFFFFFFFFFFFFFFFFFFFFFF80000001) := by decide
theorem test_v_srlv_1 : OkTo 0x00221806 (start [(1, 0x24), (2, vecX)]) (·.setReg 3 0x8000000) := by decide
theorem test_v_srlv_2 : OkTo 0x00221806 (start [(1, 0x3F), (2, vecX)]) (·.setReg 3 1) := by decide
theorem test_v_srav_2 : OkTo 0x00221807 (start [(1, 0x1F), (2, vecX)]) (·.setReg 3 ones) := by decide
theorem test_v_srav_3 : OkTo 0x00421007 (start [(2, vecX)]) (·.setReg 2 0xFFFFFFFFFFFFFFFFFFFFFFFFC0000000) := by decide
theorem test_v_jr_1 : OkTo 0x00200008 (((start [(1, 0x5000)]).setPc 0x2000).setNpc 0x2004) (·.setNpc 0x5000) := by decide
theorem test_v_jr_2 : OkTo 0x00200008 (((start [(1, 0xDEADBEEF00000001FFFFFFFF00005003)]).setPc 0x2000).setNpc 0x2004) (·.setNpc 0x5003) := by decide
theorem test_v_jalr_2 : OkTo 0x00200809 (((start [(1, 0x5000)]).setPc 0x2000).setNpc 0x2004) (fun s => (s.setReg 1 0x2008).setNpc 0x5000) := by decide
theorem test_v_jalr_3 : OkTo 0x0020F809 (((start [(1, 0x5000)]).setPc 0x7FFFFFF8).setNpc 0x7FFFFFFC) (fun s => (s.setReg 31 0xFFFFFFFFFFFFFFFFFFFFFFFF80000000).setNpc 0x5000) := by decide
theorem test_v_movz_1 : OkTo 0x0022180A (start [(1, vecA), (3, vecB)]) (·.setReg 3 vecA) := by decide
theorem test_v_movz_3 : OkTo 0x0022180A (start [(1, vecA), (2, 0x10000000000000000), (3, vecB)]) id := by decide
theorem test_v_movn_2 : OkTo 0x0022180B (start [(1, vecA), (3, vecB)]) id := by decide
theorem test_v_movn_3 : OkTo 0x0022180B (start [(1, vecA), (2, 0x80000000000000000000000000000000), (3, vecB)]) (·.setReg 3 vecA) := by decide
theorem test_v_sys_1 : FaultsWith 0x0000000C ((((((start [(1, vecA), (2, vecB), (3, vecX)]).setHi vecY).setLo vecX).setSa 0x1122334455667788).setPc 0x100).setNpc 0x104) (.softwareException .syscall) := by decide
theorem test_v_sys_2 : FaultsWith 0x0000000D ((((((start [(1, vecA), (2, vecB), (3, vecX)]).setHi vecY).setLo vecX).setSa 0x1122334455667788).setPc 0x100).setNpc 0x104) (.softwareException .brk) := by decide
theorem test_v_sys_3 : OkTo 0x0000000F ((((((start [(1, vecA), (2, vecB), (3, vecX)]).setHi vecY).setLo vecX).setSa 0x1122334455667788).setPc 0x100).setNpc 0x104) id := by decide
theorem test_v_mfhi_1 : OkTo 0x00001810 ((State.reset.setHi vecA).setLo vecB) (·.setReg 3 vecA) := by decide
theorem test_v_mthi_1 : OkTo 0x00200011 (start [(1, vecA)]) (·.setHi vecA) := by decide
theorem test_v_mflo_1 : OkTo 0x00001812 ((State.reset.setHi vecA).setLo vecB) (·.setReg 3 vecB) := by decide
theorem test_v_mtlo_1 : OkTo 0x00200013 (start [(1, vecB)]) (·.setLo vecB) := by decide
theorem test_v_dsllv_1 : OkTo 0x00221814 (start [(1, 0x40), (2, vecY)]) (·.setReg 3 0xFFFFFFFFFFFFFFFF8000000012345678) := by decide
theorem test_v_dsllv_3 : OkTo 0x00221814 (start [(1, 0xFFFFFFFFFFFFFFFFFFFFFFFFFFFFFFE1), (2, vecY)]) (·.setReg 3 0x2468ACF000000000) := by decide
theorem test_v_dsrlv_1 : OkTo 0x00221816 (start [(1, 0x24), (2, vecY)]) (·.setReg 3 0x8000000) := by decide
theorem test_v_dsrlv_2 : OkTo 0x00221816 (start [(1, 0), (2, vecY)]) (·.setReg 3 0xFFFFFFFFFFFFFFFF8000000012345678) := by decide
theorem test_v_dsrav_1 : OkTo 0x00221817 (start [(1, 0x24), (2, vecY)]) (·.setReg 3 0xFFFFFFFFFFFFFFFFFFFFFFFFF8000000) := by decide
theorem test_v_dsrav_2 : OkTo 0x00221817 (start [(1, 0x3F), (2, 0x7FFFFFFFFFFFFFFF)]) (·.setReg 3 0) := by decide
theorem test_v_mult_2 : OkTo 0x00220018 (start [(1, 0xFFFFFFFFFFFFFFFFFFFFFFFF80000000), (2, 0xFFFFFFFFFFFFFFFFFFFFFFFF80000000)]) (fun s => (s.setLo 0).setHi 0x40000000) := by decide
theorem test_v_mult_4 : OkTo 0x00220018 (start [(1, 0xFFFFFFFFFFFFFFFFFFFFFFFF80000000), (2, 1)]) (fun s => (s.setLo 0xFFFFFFFFFFFFFFFFFFFFFFFF80000000).setHi ones) := by decide
theorem test_v_multu_1 : OkTo 0x00220019 (start [(1, 0xFFFFFFFF), (2, 0xFFFFFFFF)]) (fun s => (s.setLo 1).setHi 0xFFFFFFFFFFFFFFFFFFFFFFFFFFFFFFFE) := by decide
theorem test_v_multu_4 : OkTo 0x00220019 (start [(1, 0x10000), (2, 0x8000)]) (fun s => (s.setLo 0xFFFFFFFFFFFFFFFFFFFFFFFF80000000).setHi 0) := by decide
theorem test_v_div_2 : OkTo 0x0022001A (start [(1, 0xFFFFFFFFFFFFFFFFFFFFFFFFFFFFFFF9), (2, 2)]) (fun s => (s.setLo 0xFFFFFFFFFFFFFFFFFFFFFFFFFFFFFFFD).setHi ones) := by decide
theorem test_v_div_6 : OkTo 0x0022001A (start [(1, 0xFFFFFFFFFFFFFFFFFFFFFFFFFFFFFFFB)]) (fun s => (s.setLo 1).setHi 0xFFFFFFFFFFFFFFFFFFFFFFFFFFFFFFFB) := by decide
theorem test_v_divu_2 : OkTo 0x0022001B (start [(1, 0x80000000), (2, 1)]) (fun s => (s.setLo 0xFFFFFFFFFFFFFFFFFFFFFFFF80000000).setHi 0) := by decide
theorem test_v_divu_5 : OkTo 0x0022001B (start [(1, 0x80000001)]) (fun s => (s.setLo ones).setHi 0xFFFFFFFFFFFFFFFFFFFFFFFF80000001) := by decide
theorem test_v_add_1 : FaultsWith 0x00221820 (start [(1, 0x7FFFFFFF), (2, 1), (3, vecB)]) (.arithmeticOverflow .add) := by decide
theorem test_v_add_6 : OkTo 0x00221820 (start [(1, 0xDEADBEEFCAFEBABE1234567800000005), (2, 0x1FFFFFFFF00000007)]) (·.setReg 3 12) := by decide
theorem test_v_addu_1 : OkTo 0x00221821 (start [(1, 0xFFFFFFFF), (2, 1), (3, vecB)]) (·.setReg 3 0) := by decide
theorem test_v_addu_3 : OkTo 0x00221821 (start [(1, 0xDEADBEEFCAFEBABE123456787FFFFFFF), (2, 0xFFFFFFFF00000001)]) (·.setReg 3 0xFFFFFFFFFFFFFFFFFFFFFFFF80000000) := by decide
theorem test_v_sub_2 : FaultsWith 0x00221822 (start [(2, 0xFFFFFFFFFFFFFFFFFFFFFFFF80000000)]) (.arithmeticOverflow .sub) := by decide
theorem test_v_sub_5 : OkTo 0x00221822 (start [(1, 0xFFFFFFFFFFFFFFFFFFFFFFFF80000000), (2, ones)]) (·.setReg 3 0xFFFFFFFFFFFFFFFFFFFFFFFF80000001) := by decide
theorem test_v_subu_1 : OkTo 0x00221823 (start [(2, 1)]) (·.setReg 3 ones) := by decide
theorem test_v_subu_2 : OkTo 0x00221823 (start [(1, 0xFFFFFFFFFFFFFFFFFFFFFFFF80000000), (2, 1)]) (·.setReg 3 0x7FFFFFFF) := by decide
theorem test_v_and_1 : OkTo 0x00221824 (start [(1, vecA), (2, vecB)]) (·.setReg 3 0x123000089AB000000DC009800540010) := by decide
theorem test_v_and_2 : OkTo 0x00221824 (start [(1, vecA), (2, ones)]) (·.setReg 3 vecA) := by decide
theorem test_v_or_1 : OkTo 0x00221825 (start [(1, vecA), (2, vecB)]) (·.setReg 3 0xFFFF4567FFFFCDEFFEFFBAFF76FF32FF) := by decide
theorem test_v_or_2 : OkTo 0x00201825 (start [(1, vecA)]) (·.setReg 3 vecA) := by decide
theorem test_v_xor_1 : OkTo 0x00221826 (start [(1, vecA), (2, vecB)]) (·.setReg 3 0xFEDC45677654CDEFFE23BA6776AB32EF) := by decide
theorem test_v_xor_2 : OkTo 0x00210826 (start [(1, vecA)]) (·.setReg 1 0) := by decide
theorem test_v_nor_1 : OkTo 0x00221827 (start [(1, vecA), (2, vecB)]) (·.setReg 3 0xBA9800003210010045008900CD00) := by decide
theorem test_v_r0_1 : OkTo 0x00000027 State.reset (·.setReg 0 ones) := by decide
theorem test_v_mfsa_1 : OkTo 0x00001828 (State.reset.setSa 0x8000000000000007) (·.setReg 3 0xFFFFFFFFFFFFFFFF8000000000000007) := by decide
theorem test_v_mfsa_2 : OkTo 0x00001828 (State.reset.setSa 0x7FFFFFFFFFFFFFFF) (·.setReg 3 0x7FFFFFFFFFFFFFFF) := by decide
theorem test_v_mtsa_1 : OkTo 0x00200029 (start [(1, vecA)]) (·.setSa 0xFEDCBA9876543210) := by decide
theorem test_v_slt_4 : OkTo 0x0022182A (start [(1, 0x80000000), (3, vecB)]) (·.setReg 3 0) := by decide
theorem test_v_slt_6 : OkTo 0x0022182A (start [(1, 0xFFFFFFFFFFFFFFFF8000000000000000), (2, 0x7FFFFFFFFFFFFFFF)]) (·.setReg 3 1) := by decide
theorem test_v_sltu_1 : OkTo 0x0022182B (start [(1, ones), (2, 1), (3, vecB)]) (·.setReg 3 0) := by decide
theorem test_v_sltu_4 : OkTo 0x0022182B (start [(1, 0x10000000000000000), (2, 1)]) (·.setReg 3 1) := by decide
theorem test_v_dadd_1 : FaultsWith 0x0022182C (start [(1, 0x7FFFFFFFFFFFFFFF), (2, 1), (3, vecB)]) (.arithmeticOverflow .dadd) := by decide
theorem test_v_dadd_3 : OkTo 0x0022182C (start [(1, 0xFFFFFFFF), (2, 1)]) (·.setReg 3 0x100000000) := by decide
theorem test_v_daddu_1 : OkTo 0x0022182D (start [(1, 0x7FFFFFFFFFFFFFFF), (2, 1)]) (·.setReg 3 0xFFFFFFFFFFFFFFFF8000000000000000) := by decide
theorem test_v_daddu_2 : OkTo 0x0022182D (start [(1, 0xFFFFFFFF), (2, 1)]) (·.setReg 3 0x100000000) := by decide
theorem test_v_dsub_2 : FaultsWith 0x0022182E (start [(2, 0xFFFFFFFFFFFFFFFF8000000000000000)]) (.arithmeticOverflow .dsub) := by decide
theorem test_v_dsub_4 : OkTo 0x0022182E (start [(1, 0x100000000), (2, 1)]) (·.setReg 3 0xFFFFFFFF) := by decide
theorem test_v_dsubu_1 : OkTo 0x0022182F (start [(2, 1)]) (·.setReg 3 ones) := by decide
theorem test_v_dsubu_2 : OkTo 0x0022182F (start [(1, 0xFFFFFFFFFFFFFFFF8000000000000000), (2, 1)]) (·.setReg 3 0x7FFFFFFFFFFFFFFF) := by decide
theorem test_v_trap_1 : FaultsWith 0x00220030 (start [(1, 7), (2, 7)]) (.trap .tge 1 2) := by decide
theorem test_v_trap_2 : OkTo 0x00220030 (start [(1, ones), (2, 1)]) id := by decide
theorem test_v_trap_3 : FaultsWith 0x00220031 (start [(1, ones), (2, 1)]) (.trap .tgeu 1 2) := by decide
theorem test_v_trap_14 : OkTo 0x00220031 (start [(1, 1), (2, ones)]) id := by decide
theorem test_v_trap_4 : FaultsWith 0x00220032 (start [(1, ones), (2, 1)]) (.trap .tlt 1 2) := by decide
theorem test_v_trap_16 : OkTo 0x00220032 (start [(1, 0x80000000), (2, 0)]) id := by decide
theorem test_v_trap_15 : FaultsWith 0x00220033 (start [(1, 1), (2, ones)]) (.trap .tltu 1 2) := by decide
theorem test_v_trap_5 : OkTo 0x00220033 (start [(1, ones), (2, 1)]) id := by decide
theorem test_v_trap_9 : FaultsWith 0x00220034 (start [(1, 0x10000000000000007), (2, 7)]) (.trap .teq 1 2) := by decide
theorem test_v_trap_7 : OkTo 0x00220034 (start [(1, 7), (2, 8)]) id := by decide
theorem test_v_trap_8 : FaultsWith 0x00220036 (start [(1, 7), (2, 8)]) (.trap .tne 1 2) := by decide
theorem test_v_trap_10 : OkTo 0x00220036 (start [(1, 0x10000000000000007), (2, 7)]) id := by decide
theorem test_v_dsll_1 : OkTo 0x00021838 (start [(2, vecY)]) (·.setReg 3 0xFFFFFFFFFFFFFFFF8000000012345678) := by decide
theorem test_v_dsll_3 : OkTo 0x00021FF8 (start [(2, vecY)]) (·.setReg 3 0x91A2B3C00000000) := by decide
theorem test_v_dsrl_1 : OkTo 0x0002187A (start [(2, vecY)]) (·.setReg 3 0x40000000091A2B3C) := by decide
theorem test_v_dsrl_2 : OkTo 0x00021FFA (start [(2, vecY)]) (·.setReg 3 0x100000000) := by decide
theorem test_v_dsra_1 : OkTo 0x0002187B (start [(2, vecY)]) (·.setReg 3 0xFFFFFFFFFFFFFFFFC0000000091A2B3C) := by decide
theorem test_v_dsra_2 : OkTo 0x00021FFB (start [(2, vecY)]) (·.setReg 3 0xFFFFFFFFFFFFFFFFFFFFFFFF00000000) := by decide
theorem test_v_dsll32_1 : OkTo 0x0002183C (start [(2, vecY)]) (·.setReg 3 0x1234567800000000) := by decide
theorem test_v_dsll32_2 : OkTo 0x00021FFC (start [(2, vecY)]) (·.setReg 3 0) := by decide
theorem test_v_dsrl32_1 : OkTo 0x0002183E (start [(2, vecY)]) (·.setReg 3 0x80000000) := by decide
theorem test_v_dsrl32_2 : OkTo 0x00021FFE (start [(2, vecY)]) (·.setReg 3 1) := by decide
theorem test_v_dsra32_1 : OkTo 0x0002183F (start [(2, vecY)]) (·.setReg 3 0xFFFFFFFFFFFFFFFFFFFFFFFF80000000) := by decide
theorem test_v_dsra32_2 : OkTo 0x00021FFF (start [(2, vecY)]) (·.setReg 3 ones) := by decide

/-! ## The width parameters of R4 at other values than the spec's -/

/-- HI_WIDTH 64: MTHI of a value with bits above 63 keeps the low dword, which MFHI reads sign-extended (D1). -/
theorem test_hiWidth_dword :
    handle { referenceConfig with hiWidth := .dword } (.mthi 1) (start [(1, vecA)])
      = .ok ((start [(1, vecA)]).setHi 0xFFFFFFFFFFFFFFFFFEDCBA9876543210) := by decide
/-- SA_WIDTH and SA_XFER 128: MTSA keeps all 128 bits and MFSA gives them back (D2). -/
theorem test_saWidth_qword :
    handle { referenceConfig with saWidth := .qword, saXfer := .qword } (.mtsa 1) (start [(1, vecA)])
      = .ok (((start [(1, vecA)]).setSa 0xFEDCBA9876543210).setSaUpper 0x0123456789ABCDEF) ∧
    ((start []).setSa 0xFEDCBA9876543210 |>.setSaUpper 0x0123456789ABCDEF).readSa
      { referenceConfig with saWidth := .qword, saXfer := .qword } = vecA := by decide
/-- DIV_WIDTH 64: -2^32 divided by 3, whose low word is 0, by hand: quotient -1431655765, remainder -1 (D5). -/
theorem test_divWidth_dword :
    handle { referenceConfig with divWidth := .dword } (.div 1 2) (start [(1, 0xFFFFFFFFFFFFFFFFFFFFFFFF00000000), (2, 3)])
      = .ok (((start [(1, 0xFFFFFFFFFFFFFFFFFFFFFFFF00000000), (2, 3)]).setLo 0xFFFFFFFFFFFFFFFFFFFFFFFFAAAAAAAB).setHi ones) := by
  decide

/-! ## The fetch path and the drivers -/

/-- FETCH_BYTE_ORDER little: the word 0x00221820 lies as 20 18 22 00 (R43). -/
theorem test_placeWord_little : placeWord .little [] 4 0x00221820 = [(4, 0x20), (5, 0x18), (6, 0x22), (7, 0x00)] := by decide
theorem test_placeWord_big : placeWord .big [] 4 0x00221820 = [(4, 0x00), (5, 0x22), (6, 0x18), (7, 0x20)] := by decide
/-- After reset nothing is loaded: the first step is stuck (log 1). -/
theorem test_reset_step_stuck : drive referenceConfig State.reset = .stuck (.unmappedFetch 0) State.reset := by decide
/-- P7: a misaligned pc is stuck, with the state as it was (R166). -/
theorem test_misaligned_pc_stuck :
    drive referenceConfig (State.reset.setPc 2) = .stuck (.misalignedFetch 2) (State.reset.setPc 2) := by decide
/-- The first instruction after reset, stored by `withFetchWord`: ADDU r3, r1, r2 on the reset registers (R166). -/
theorem test_step_from_reset : ∃ t, step (State.reset.withFetchWord 32 0x00221821) = .next t ∧ t.pc = 4 ∧ t.npc = 8 :=
  ⟨_, rfl, rfl, rfl⟩
/-- P6: a faulting BREAK leaves the counters advanced (R169). -/
theorem test_break_halts : drive referenceConfig (loaded State.reset 0 [0x0000000D]) =
    .halted (.softwareException .brk) (((loaded State.reset 0 [0x0000000D]).setPc 4).setNpc 8) := by decide

/-! ## Witnesses: for every obligation with hypotheses, concrete inputs that meet them, at the boundary of each clause -/

/-- The registers of most witnesses: r1 = 5, r2 = 7, r3 = 0. -/
abbrev s57 : State := start [(1, 5), (2, 7)]
/-- `s57` with ADD r3, r1, r2 where it fetches. -/
abbrev s57Add : State := loaded s57 0 [0x00221820]
/-- The reference configuration with register 0 hard-wired. -/
abbrev hardwired : Config := { referenceConfig with r0Hardwired := true }
/-- The permutation that exchanges registers 0 and 5. -/
abbrev swap05 (i : RegIdx) : RegIdx := if i = 0 then 5 else if i = 5 then 0 else i
/-- A jump, its delay slot and the target: JR r1; SYNC at 0, SYNC at 0x40, with r1 = 0x40. -/
abbrev sJump : State :=
  loaded { start [(1, 0x40)] with text := placeWord .little [] 0x40 0x0000000F } 0 [0x00200008, 0x0000000F]

theorem witness_ResetStateIsAllZeroWithNextPcFour :
    fetchWord referenceConfig.fetchByteOrder (placeWord .little [] 0 0x00221820) 0 = some 0x00221820 := by decide
theorem witness_HostWritesReadBackAtEveryWidth :
    referenceConfig.r0Hardwired = false ∧ referenceConfig.hiWidth = .qword ∧ referenceConfig.loWidth = .qword ∧
    referenceConfig.saWidth = .dword := by decide
theorem witness_DecodeOfEncodeIsTheInstruction :
    standardEncoding.functMap.wellFormed = true ∧ FunctMap.wellFormed standardFunctMap.reverse = true := by decide
theorem witness_DecodeDependsOnNamedFieldsAlone :
    decode 0x00221820 = .ok (.add 3 1 2) ∧ (decodeFields 0x00221FE0).opcode = (decodeFields 0x00221820).opcode ∧
    (decodeFields 0x00221FE0).funct = (decodeFields 0x00221820).funct ∧
    (decodeFields 0x00221FE0).rs = (decodeFields 0x00221820).rs ∧ (decodeFields 0x00221FE0).rt = (decodeFields 0x00221820).rt ∧
    (decodeFields 0x00221FE0).rd = (decodeFields 0x00221820).rd ∧ Form.usesSa (Op.form .add) = false := by decide
theorem witness_EveryWordHasOneDisposition :
    (decodeFields 0x04000000).opcode ≠ 0 ∧ (decodeFields 0xFFFFFFFF).opcode ≠ 0 ∧
    ((decodeFields 0x00000001).opcode = 0 ∧ (decodeFields 0x00000001).funct = 0x01) ∧
    ((decodeFields 0x03FFFFFD).opcode = 0 ∧ (decodeFields 0x03FFFFFD).funct = 0x3D) ∧
    ((decodeFields 0x00000000).opcode = 0 ∧ (decodeFields 0x00000000).funct = 0x00) := by decide
theorem witness_DispatchSelectsByOpcodeThenFunct :
    (decodeFields 0x04000000).opcode ≠ 0 ∧
    ((decodeFields 0x0000003D).opcode = 0 ∧ opOfFunct standardFunctMap (decodeFields 0x0000003D).funct = none) ∧
    ((decodeFields 0x0000003F).opcode = 0 ∧ opOfFunct standardFunctMap (decodeFields 0x0000003F).funct = some .dsra32) := by
  decide
theorem witness_StepRunsTheDecodedInstruction :
    (s57Add.pc.toNat % 4 = 0 ∧ fetchWord referenceConfig.fetchByteOrder s57Add.text s57Add.pc = some 0x00221820 ∧
      decode 0x00221820 = .ok (.add 3 1 2)) ∧
    ((loaded s57 0xFFFFFFFC [0x0000000F]).pc.toNat % 4 = 0 ∧
      fetchWord referenceConfig.fetchByteOrder (loaded s57 0xFFFFFFFC [0x0000000F]).text 0xFFFFFFFC = some 0x0000000F ∧
      decode 0x0000000F = .ok .sync) := by decide
theorem witness_StepStops_misaligned :
    (s57.setPc 1).pc.toNat % 4 ≠ 0 ∧ (s57.setPc 3).pc.toNat % 4 ≠ 0 ∧ (s57.setPc 0xFFFFFFFF).pc.toNat % 4 ≠ 0 := by decide
theorem witness_StepStops_unmapped :
    State.reset.pc.toNat % 4 = 0 ∧ fetchWord referenceConfig.fetchByteOrder State.reset.text State.reset.pc = none ∧
    fetchWord referenceConfig.fetchByteOrder [(0, 1), (1, 2), (2, 3)] 0 = none := by decide
theorem witness_StepStops_rejected :
    (fetchWord referenceConfig.fetchByteOrder (loaded s57 0 [0xFFFFFFFF]).text 0 = some 0xFFFFFFFF ∧
      decode 0xFFFFFFFF = .error (.unimplementedOpcode 0x3F)) ∧
    (fetchWord referenceConfig.fetchByteOrder (loaded s57 0 [0x00000001]).text 0 = some 0x00000001 ∧
      decode 0x00000001 = .error (.unimplementedFunction 0x01)) := by decide
/-- A handler's own fault (SYSCALL) and the dispatcher's (an unassigned funct) end a step alike. -/
theorem witness_StepStops_fault :
    step (loaded s57 0 [0x0000000C]) = .fault (.softwareException .syscall) ∧
    step (loaded s57 0 [0x00000001]) = .fault (.unimplementedFunction 0x01) := ⟨rfl, rfl⟩
theorem witness_StepStops_refused : step (s57.setPc 2) = .refused (.misalignedFetch 2) := rfl
theorem witness_PlacedWordIsFetchedBackInEitherByteOrder :
    (0x00000000 : Word).toNat % 4 = 0 ∧ (0xFFFFFFFC : Word).toNat % 4 = 0 ∧ (0 : Nat) < (4 : Word).toNat ∧
    (4 : Word).toNat + 4 ≤ 8 ∧ Memory.wf [(0, 1), (4294967295, 2)] = true := by decide
theorem witness_PlacedInstructionIsTheNextStep :
    s57.pc.toNat % 4 = 0 ∧ (s57.setPc 0xFFFFFFFC).pc.toNat % 4 = 0 := by decide
theorem witness_VariableShiftsAgreeWithFixedShifts :
    ((start [(1, 0)]).reg 1).toNat % 32 = (0 : ShAmt).toNat ∧ ((start [(1, ones)]).reg 1).toNat % 32 = (31 : ShAmt).toNat ∧
    ((start [(1, 64)]).reg 1).toNat % 64 = (0 : ShAmt).toNat ∧ ((start [(1, 31)]).reg 1).toNat % 64 = (31 : ShAmt).toNat ∧
    ((start [(1, 32)]).reg 1).toNat % 64 = (0 : ShAmt).toNat + 32 ∧
    ((start [(1, ones)]).reg 1).toNat % 64 = (31 : ShAmt).toNat + 32 := by decide
theorem witness_ConditionalMovesCopyAllBitsOrNothing :
    (start []).reg 2 = 0 ∧ (start [(2, 1)]).reg 2 ≠ 0 ∧
    (start [(2, 0x80000000000000000000000000000000)]).reg 2 ≠ 0 := by decide
theorem witness_DivideTruncatesTowardZero :
    ((start [(1, 0x80000000), (2, 1)]).readWord 2).toInt ≠ 0 ∧
    ¬(((start [(1, 0x80000000), (2, 1)]).readWord 1).toInt = -2147483648 ∧
      ((start [(1, 0x80000000), (2, 1)]).readWord 2).toInt = -1) ∧
    ((start [(1, 0x80000001), (2, ones)]).readWord 2).toInt ≠ 0 ∧
    ¬(((start [(1, 0x80000001), (2, ones)]).readWord 1).toInt = -2147483648 ∧
      ((start [(1, 0x80000001), (2, ones)]).readWord 2).toInt = -1) := by decide
theorem witness_DivideUnsignedGivesQuotientAndRemainder :
    ((start [(1, 5), (2, 1)]).readWord 2).toNat ≠ 0 ∧ ((start [(1, 5), (2, ones)]).readWord 2).toNat ≠ 0 := by decide
/-- A divisor whose low word is zero, although the register is not. -/
theorem witness_DivideByZeroFillsUnderTheDefaultPolicy :
    (start [(1, 5)]).readWord 2 = 0 ∧ (start [(1, ones), (2, 0x100000000)]).readWord 2 = 0 := by decide
theorem witness_DivideByZeroIsExactlyTheParameter :
    referenceConfig.divWidth = .word ∧ referenceConfig.hiWidth = .qword ∧ referenceConfig.loWidth = .qword ∧
    viewUnsigned referenceConfig.divWidth ((start [(1, 5), (2, 0x100000000)]).reg 2) = 0 ∧
    viewUnsigned referenceConfig.divWidth ((start [(1, 5), (2, 1)]).reg 2) ≠ 0 ∧
    ∀ a b, Instr.mult 1 2 ≠ .div a b ∧ Instr.mult 1 2 ≠ .divu a b :=
  ⟨rfl, rfl, rfl, by decide, by decide, fun _ _ => ⟨nofun, nofun⟩⟩
theorem witness_DivideOverflowWrapsTheQuotient :
    (start [(1, 0xFFFFFFFFFFFFFFFFFFFFFFFF80000000), (2, ones)]).readWord 1 = 0x80000000 ∧
    (start [(1, 0xFFFFFFFFFFFFFFFFFFFFFFFF80000000), (2, ones)]).readWord 2 = 0xFFFFFFFF := by decide
/-- Sums at both ends of the signed 32-bit range and one past each end. -/
theorem witness_TrappingAdd :
    ((start [(1, 0x7FFFFFFE), (2, 1)]).readWord 1).toInt + ((start [(1, 0x7FFFFFFE), (2, 1)]).readWord 2).toInt = 2147483647 ∧
    ((start [(1, 0x7FFFFFFF), (2, 1)]).readWord 1).toInt + ((start [(1, 0x7FFFFFFF), (2, 1)]).readWord 2).toInt = 2147483648 ∧
    ((start [(1, 0x80000001), (2, ones)]).readWord 1).toInt + ((start [(1, 0x80000001), (2, ones)]).readWord 2).toInt
      = -2147483648 ∧
    ((start [(1, 0x80000000), (2, ones)]).readWord 1).toInt + ((start [(1, 0x80000000), (2, ones)]).readWord 2).toInt
      = -2147483649 := by decide
/-- Differences at both ends of the signed 32-bit range and one past each end. -/
theorem witness_TrappingSub :
    ((start [(1, 0x7FFFFFFE), (2, ones)]).readWord 1).toInt - ((start [(1, 0x7FFFFFFE), (2, ones)]).readWord 2).toInt
      = 2147483647 ∧
    ((start [(1, 0x7FFFFFFF), (2, ones)]).readWord 1).toInt - ((start [(1, 0x7FFFFFFF), (2, ones)]).readWord 2).toInt
      = 2147483648 ∧
    ((start [(1, 0x80000001), (2, 1)]).readWord 1).toInt - ((start [(1, 0x80000001), (2, 1)]).readWord 2).toInt
      = -2147483648 ∧
    ((start [(1, 0x80000000), (2, 1)]).readWord 1).toInt - ((start [(1, 0x80000000), (2, 1)]).readWord 2).toInt
      = -2147483649 := by decide
/-- Sums at both ends of the signed 64-bit range and one past each end. -/
theorem witness_TrappingDadd :
    ((start [(1, 0x7FFFFFFFFFFFFFFE), (2, 1)]).readDword 1).toInt + ((start [(1, 0x7FFFFFFFFFFFFFFE), (2, 1)]).readDword 2).toInt
      = 9223372036854775807 ∧
    ((start [(1, 0x7FFFFFFFFFFFFFFF), (2, 1)]).readDword 1).toInt + ((start [(1, 0x7FFFFFFFFFFFFFFF), (2, 1)]).readDword 2).toInt
      = 9223372036854775808 ∧
    ((start [(1, 0x8000000000000001), (2, ones)]).readDword 1).toInt
      + ((start [(1, 0x8000000000000001), (2, ones)]).readDword 2).toInt = -9223372036854775808 ∧
    ((start [(1, 0x8000000000000000), (2, ones)]).readDword 1).toInt
      + ((start [(1, 0x8000000000000000), (2, ones)]).readDword 2).toInt = -9223372036854775809 := by decide
/-- Differences at both ends of the signed 64-bit range and one past each end. -/
theorem witness_TrappingDsub :
    ((start [(1, 0x7FFFFFFFFFFFFFFE), (2, ones)]).readDword 1).toInt
      - ((start [(1, 0x7FFFFFFFFFFFFFFE), (2, ones)]).readDword 2).toInt = 9223372036854775807 ∧
    ((start [(1, 0x7FFFFFFFFFFFFFFF), (2, ones)]).readDword 1).toInt
      - ((start [(1, 0x7FFFFFFFFFFFFFFF), (2, ones)]).readDword 2).toInt = 9223372036854775808 ∧
    ((start [(1, 0x8000000000000001), (2, 1)]).readDword 1).toInt - ((start [(1, 0x8000000000000001), (2, 1)]).readDword 2).toInt
      = -9223372036854775808 ∧
    ((start [(1, 0x8000000000000000), (2, 1)]).readDword 1).toInt - ((start [(1, 0x8000000000000000), (2, 1)]).readDword 2).toInt
      = -9223372036854775809 := by decide
theorem witness_WrappingAddSubCompleteModuloTheWidth :
    (∃ t, exec (.add 3 1 2) s57 = .next t) ∧ (∃ t, exec (.sub 3 1 2) s57 = .next t) ∧
    (∃ t, exec (.dadd 3 1 2) s57 = .next t) ∧ ∃ t, exec (.dsub 3 1 2) s57 = .next t :=
  ⟨⟨_, rfl⟩, ⟨_, rfl⟩, ⟨_, rfl⟩, ⟨_, rfl⟩⟩
theorem witness_SetOnLessThanWritesOneExactlyWhenTheTrapFaults :
    (∃ t, exec (.slt 3 1 2) s57 = .next t) ∧ (∃ t, exec (.slt 3 2 1) s57 = .next t) ∧
    (∃ t, exec (.sltu 3 1 2) s57 = .next t) ∧ ∃ t, exec (.sltu 3 2 1) s57 = .next t :=
  ⟨⟨_, rfl⟩, ⟨_, rfl⟩, ⟨_, rfl⟩, ⟨_, rfl⟩⟩
/-- Equal, adjacent and extreme pairs: each of the six conditions both ways. -/
theorem witness_TrapsCompleteUnlessTheirConditionHolds :
    ((start [(1, 7), (2, 7)]).readDword 1).toInt ≥ ((start [(1, 7), (2, 7)]).readDword 2).toInt ∧
    ((start [(1, 6), (2, 7)]).readDword 1).toInt < ((start [(1, 6), (2, 7)]).readDword 2).toInt ∧
    ((start [(1, 7), (2, 7)]).readDword 1).toNat ≥ ((start [(1, 7), (2, 7)]).readDword 2).toNat ∧
    ((start [(1, 6), (2, 7)]).readDword 1).toNat < ((start [(1, 6), (2, 7)]).readDword 2).toNat ∧
    ((start [(1, ones), (2, 0)]).readDword 1).toInt < ((start [(1, ones), (2, 0)]).readDword 2).toInt ∧
    (start [(1, 7), (2, 0x10000000000000007)]).readDword 1 = (start [(1, 7), (2, 0x10000000000000007)]).readDword 2 ∧
    (start [(1, 6), (2, 7)]).readDword 1 ≠ (start [(1, 6), (2, 7)]).readDword 2 := by decide
theorem witness_SyncCompletesWithoutEffect :
    (decodeFields 0x03FFFFCF).opcode = 0 ∧
    opOfFunct referenceConfig.encoding.functMap (decodeFields 0x03FFFFCF).funct = some .sync := by decide
theorem witness_FaultingCallChangesNoState :
    execute referenceConfig 0x0000000C s57 = (s57, .fault (.softwareException .syscall)) := by decide
theorem witness_InstructionsChangeOnlyTheirDeclaredWrites :
    (∃ t, exec (.add 3 1 2) s57 = .next t) ∧ ∃ t, handle hardwired (.jalr 0 1) s57 = .ok t := ⟨⟨_, rfl⟩, ⟨_, rfl⟩⟩
theorem witness_SpecialRegistersChangeOnlyWhereNamed :
    (∃ t, exec (.mthi 1) s57 = .next t ∧ t.hi ≠ s57.hi) ∧ (∃ t, exec (.mtlo 1) s57 = .next t ∧ t.lo ≠ s57.lo) ∧
    (∃ t, exec (.mtsa 1) s57 = .next t ∧ t.sa ≠ s57.sa) ∧ ∃ t, exec (.mult 1 2) s57 = .next t ∧ t.lo ≠ s57.lo :=
  ⟨⟨_, rfl, by decide⟩, ⟨_, rfl, by decide⟩, ⟨_, rfl, by decide⟩, ⟨_, rfl, by decide⟩⟩
theorem witness_NoInstructionWritesPcAndOnlyJalrReadsIt :
    (∃ t, handle referenceConfig (.jr 1) s57 = .ok t) ∧ ∀ rd rs, Instr.jr 1 ≠ .jalr rd rs :=
  ⟨⟨_, rfl⟩, fun _ _ => nofun⟩
theorem witness_OnlyJumpsTouchNextPc :
    (isJump (.sll 3 2 1) = false ∧ ∃ t, handle referenceConfig (.sll 3 2 1) s57 = .ok t) ∧ isJump (.jr 1) = true ∧
    isJump (.jalr 3 1) = true := ⟨⟨rfl, ⟨_, rfl⟩⟩, rfl, rfl⟩
theorem witness_StepKeepsRegistersDwordCanonical : Canonical s57Add ∧ ∃ t, step s57Add = .next t :=
  ⟨by decide, ⟨_, rfl⟩⟩
theorem keepsCanonical_referenceConfig : KeepsCanonical referenceConfig := by
  refine ⟨fun sg n p h _ _ => ⟨h, ?_⟩, by decide, by decide, fun v => dwordCanonical_sextWord v, by decide, by decide⟩
  cases sg
  · show DwordCanonical (if 0 ≤ n.toInt then sextWord 0xFFFFFFFF else sextWord 0x00000001)
    split <;> exact dwordCanonical_sextWord _
  · exact dwordCanonical_sextWord _
theorem keepsCanonical_div0Noop : KeepsCanonical { referenceConfig with div0 := div0Noop } :=
  ⟨fun _ _ _ _ h h' => ⟨h, h'⟩, keepsCanonical_referenceConfig.2⟩
theorem witness_HandlersKeepDwordCanonicalUnderEveryConfiguration :
    KeepsCanonical { referenceConfig with div0 := div0Noop } ∧ Canonical s57 ∧
    ∃ t, handle { referenceConfig with div0 := div0Noop } (.div 1 3) s57 = .ok t :=
  ⟨keepsCanonical_div0Noop, by decide, ⟨_, rfl⟩⟩
theorem witness_OpenWidthsDoNotShowOnCanonicalStates :
    Canonical (start [(1, ones), (2, 0xFFFFFFFFFFFFFFFF8000000000000000)]) := by decide
theorem witness_StepKeepsTheProgramText : (∃ t, step s57Add = .next t) ∧ Memory.wf s57Add.text = true :=
  ⟨⟨_, rfl⟩, by decide⟩
theorem witness_NoRegisterIndexIsSpecial :
    (∀ i, swap05 (swap05 i) = i) ∧ (∃ t, exec (.add 0 1 5) s57 = .next t) ∧ exec (.teq 0 5) s57 = .fault (.trap .teq 0 5) :=
  ⟨by decide, ⟨_, rfl⟩, rfl⟩
theorem witness_HardwiredVariantNeverChangesRegisterZero :
    hardwired.r0Hardwired = true ∧ ∃ t, handle hardwired (.nor 0 0 0) s57 = .ok t := ⟨rfl, ⟨_, rfl⟩⟩
theorem witness_AllZeroWord : WordCanonical (s57.reg 0) ∧ ¬WordCanonical ((start [(0, 0x100000000)]).reg 0) := by decide
theorem witness_HiAndLoNeedNoSpacing :
    (∃ t, exec (.mfhi 3) s57 = .next t) ∧ (∃ t, exec (.mflo 3) s57 = .next t) ∧ ∃ t, exec (.mult 1 2) s57 = .next t :=
  ⟨⟨_, rfl⟩, ⟨_, rfl⟩, ⟨_, rfl⟩⟩
theorem witness_DriversAgreeOnEveryWordButJalr :
    ∀ rd rs, decodeWith referenceConfig.encoding 0x0000000D ≠ .ok (.jalr rd rs) := by
  rw [show decodeWith referenceConfig.encoding 0x0000000D = .ok .brk by decide]
  exact fun _ _ => nofun
/-- A program text whose one word is BREAK. -/
theorem witness_RunsUnderBothDriversAgreeWithoutJalr :
    ∀ (a w : Word) (rd rs : RegIdx), a.toNat % 4 = 0 →
      fetchWord referenceConfig.fetchByteOrder (loaded s57 0 [0x0000000D]).text a = some w →
      decodeWith referenceConfig.encoding w ≠ .ok (.jalr rd rs) := by
  intro a w rd rs ha h
  have hw : w = 0x0000000D := by
    by_cases h0 : a = 0
    · subst h0
      have : fetchWord referenceConfig.fetchByteOrder (loaded s57 0 [0x0000000D]).text 0 = some 0x0000000D := by decide
      exact Option.some.inj (h.symm.trans this)
    · have hn : 4 ≤ a.toNat := by
        have : a.toNat ≠ 0 := fun e => h0 (BitVec.eq_of_toNat_eq e)
        omega
      have ht : (loaded s57 0 [0x0000000D]).text = [(0, 0x0D), (1, 0), (2, 0), (3, 0)] := by decide
      have hr : readByte (loaded s57 0 [0x0000000D]).text a.toNat = none := by
        rw [ht]
        simp [readByte, show ¬0 = a.toNat by omega, show ¬1 = a.toNat by omega, show ¬2 = a.toNat by omega,
          show ¬3 = a.toNat by omega]
      unfold fetchWord at h
      rw [hr] at h
      cases h
  subst hw
  exact witness_DriversAgreeOnEveryWordButJalr rd rs
theorem witness_JalrLinksAPlusTwelveUnderSAndAPlusEightUnderT :
    referenceConfig.r0Hardwired = false ∧ referenceConfig.linkWrite = sextWord ∧
    decodeWith referenceConfig.encoding 0x0020F809 = .ok (.jalr 31 1) ∧
    (loaded s57 0xFFFFFFF8 [0x0020F809]).npc = (loaded s57 0xFFFFFFF8 [0x0020F809]).pc + 4 :=
  ⟨rfl, rfl, by decide, by decide⟩
theorem witness_JumpTakesEffectAfterOneInstruction :
    ∃ t u, Fetches sJump (.jr 1) ∧ step sJump = .next t ∧ Fetches t .sync ∧ isJump .sync = false ∧ step t = .next u ∧
      u.pc = 0x40 :=
  ⟨_, _, ⟨0x00200008, rfl, rfl⟩, rfl, ⟨0x0000000F, rfl, rfl⟩, rfl, rfl, rfl⟩
/-- JALR r3, r1 at 0 with JR r2 in its delay slot: SYNC runs at 0x40, then control is at 0x80. -/
theorem witness_JumpInDelaySlotRunsOneInstructionAtTheFirstTarget :
    let s := loaded { start [(1, 0x40), (2, 0x80)] with text := placeWord .little [] 0x40 0x0000000F } 0 [0x00201809, 0x00400008]
    ∃ t u v, Fetches s (.jalr 3 1) ∧ step s = .next t ∧ Fetches t (.jr 2) ∧ step t = .next u ∧ Fetches u .sync ∧
      isJump .sync = false ∧ step u = .next v ∧ v.pc = 0x80 :=
  ⟨_, _, _, ⟨0x00201809, rfl, rfl⟩, rfl, ⟨0x00400008, rfl, rfl⟩, rfl, ⟨0x0000000F, rfl, rfl⟩, rfl, rfl, rfl⟩
/-- JR r1 at 0 with JALR r3, r2 in its delay slot: the link is the first target + 8 (R171, R91). -/
theorem witness_JumpInDelaySlot_links :
    let s := loaded { start [(1, 0x40), (2, 0x80)] with text := placeWord .little [] 0x40 0x0000000F } 0 [0x00200008, 0x00401809]
    ∃ t u v, Fetches s (.jr 1) ∧ step s = .next t ∧ Fetches t (.jalr 3 2) ∧ step t = .next u ∧ Fetches u .sync ∧
      isJump .sync = false ∧ step u = .next v ∧ v.pc = 0x80 ∧ u.reg 3 = 0x48 :=
  ⟨_, _, _, ⟨0x00200008, rfl, rfl⟩, rfl, ⟨0x00401809, rfl, rfl⟩, rfl, ⟨0x0000000F, rfl, rfl⟩, rfl, rfl, rfl, by decide⟩
theorem witness_FaultHaltsTheRunWithCountersAdvanced :
    fetchAtPc referenceConfig (loaded s57 0 [0x0000000C]) = .ok 0x0000000C ∧
    execute referenceConfig 0x0000000C (loaded s57 0 [0x0000000C]).advance
      = ((loaded s57 0 [0x0000000C]).advance, .fault (.softwareException .syscall)) := by decide
/-- P6: BREAK in the delay slot of JR r1, and of JALR r3, r1. -/
theorem witness_FaultInDelaySlot :
    (∃ t u, Fetches (loaded s57 0 [0x00200008, 0x0000000D]) (.jr 1) ∧
      step (loaded s57 0 [0x00200008, 0x0000000D]) = .next t ∧
      drive referenceConfig t = .halted (.softwareException .brk) u) ∧
    ∃ t u, Fetches (loaded s57 0 [0x00201809, 0x0000000D]) (.jalr 3 1) ∧
      step (loaded s57 0 [0x00201809, 0x0000000D]) = .next t ∧
      drive referenceConfig t = .halted (.softwareException .brk) u ∧ u.reg 3 = 12 :=
  ⟨⟨_, _, ⟨0x00200008, rfl, rfl⟩, rfl, rfl⟩, ⟨_, _, ⟨0x00201809, rfl, rfl⟩, rfl, rfl, by decide⟩⟩

end Sys2Proof.Tests
end

section
/-! PROOFS, spec/10_state.md (1): dword-canonical values (R21), and the one thing a completed instruction can have done to the
state. The frame (R37, R38), pc and npc (R25, R26), register 0 (R12) and closure (R21) all follow from that one inversion. -/

namespace Sys2Proof.Machine

/-- A value is dword-canonical exactly when bits 127:64 are copies of bit 63 (R21). -/
theorem dwordCanonical_iff_getLsbD (v : Qword) :
    DwordCanonical v ↔ ∀ k, 64 ≤ k → k < 128 → v.getLsbD k = v.getLsbD 63 := by
  have bit (k : Nat) (hk : k < 128) :
      (sextDword (lowDword v)).getLsbD k = if k < 64 then v.getLsbD k else v.getLsbD 63 := by
    simp only [sextDword, lowDword, BitVec.getLsbD_signExtend, BitVec.getLsbD_setWidth, BitVec.msb_eq_getLsbD_last]
    by_cases h : k < 64 <;> simp [hk, h]
  constructor
  · intro h k h64 hk
    have hb := bit k hk
    rwa [h, if_neg (by omega)] at hb
  · intro h
    refine BitVec.eq_of_getLsbD_eq fun k hk => ?_
    rw [bit k hk]
    split
    · rfl
    · next h64 => exact (h k (by omega) hk).symm

theorem dwordCanonical_and {a b : Qword} (ha : DwordCanonical a) (hb : DwordCanonical b) : DwordCanonical (a &&& b) := by
  rw [dwordCanonical_iff_getLsbD] at *
  intro k h64 hk
  rw [BitVec.getLsbD_and, BitVec.getLsbD_and, ha k h64 hk, hb k h64 hk]

theorem dwordCanonical_or {a b : Qword} (ha : DwordCanonical a) (hb : DwordCanonical b) : DwordCanonical (a ||| b) := by
  rw [dwordCanonical_iff_getLsbD] at *
  intro k h64 hk
  rw [BitVec.getLsbD_or, BitVec.getLsbD_or, ha k h64 hk, hb k h64 hk]

theorem dwordCanonical_xor {a b : Qword} (ha : DwordCanonical a) (hb : DwordCanonical b) : DwordCanonical (a ^^^ b) := by
  rw [dwordCanonical_iff_getLsbD] at *
  intro k h64 hk
  rw [BitVec.getLsbD_xor, BitVec.getLsbD_xor, ha k h64 hk, hb k h64 hk]

theorem dwordCanonical_not {a : Qword} (ha : DwordCanonical a) : DwordCanonical (~~~a) := by
  rw [dwordCanonical_iff_getLsbD] at *
  intro k h64 hk
  simp only [BitVec.getLsbD_not, ha k h64 hk, hk]
  simp

theorem dwordCanonical_boolQword (b : Bool) : DwordCanonical (boolQword b) := by
  cases b <;> decide

/-- Both halves of a pair for HI and LO are dword-canonical. -/
def CanonicalPair (p : HiLo) : Prop := DwordCanonical p.hi ∧ DwordCanonical p.lo

theorem canonicalPair_productHiLo (p : Dword) : CanonicalPair (productHiLo p) :=
  ⟨dwordCanonical_sextWord _, dwordCanonical_sextWord _⟩

theorem canonicalPair_quotientHiLo (v : View) (q r : Int) (hv : v ≠ .qword) : CanonicalPair (quotientHiLo v q r) :=
  ⟨dwordCanonical_viewNarrow_of_ne v _ hv, dwordCanonical_viewNarrow_of_ne v _ hv⟩

/-- What HI and LO read as is canonical where they are. -/
theorem canonicalPair_readHiLo (c : Config) {s : State} (hs : Canonical s) : CanonicalPair (s.readHiLo c) :=
  ⟨dwordCanonical_viewNarrow _ _ hs.2.1, dwordCanonical_viewNarrow _ _ hs.2.2⟩

/-- DIV of a canonical dividend leaves HI and LO canonical (R109, R111, R112). -/
theorem canonicalPair_divideSigned {c : Config} (hc : KeepsCanonical c) {a : Qword} (b : Qword) {old : HiLo}
    (ha : DwordCanonical a) (hold : CanonicalPair old) : CanonicalPair (divideSigned c a b old) := by
  obtain ⟨hdiv0, hovfHi, hovfLo, -, hwidth, -⟩ := hc
  rcases divideSigned_cases c a b old with ⟨-, e⟩ | ⟨-, -, e⟩ | ⟨-, -, e⟩ <;> rw [e]
  · exact hdiv0 _ _ _ (dwordCanonical_viewNarrow _ _ ha) hold.1 hold.2
  · exact ⟨hovfHi, hovfLo⟩
  · exact canonicalPair_quotientHiLo _ _ _ hwidth

/-- DIVU of a canonical dividend leaves HI and LO canonical (R110, R111). -/
theorem canonicalPair_divideUnsigned {c : Config} (hc : KeepsCanonical c) {a : Qword} (b : Qword) {old : HiLo}
    (ha : DwordCanonical a) (hold : CanonicalPair old) : CanonicalPair (divideUnsigned c a b old) := by
  obtain ⟨hdiv0, -, -, -, hwidth, -⟩ := hc
  rcases divideUnsigned_cases c a b old with ⟨-, e⟩ | ⟨-, e⟩ <;> rw [e]
  · exact hdiv0 _ _ _ (dwordCanonical_viewNarrow _ _ ha) hold.1 hold.2
  · exact canonicalPair_quotientHiLo _ _ _ hwidth

/-- What MFSA copies is canonical unless both SA and its transfer have 128 bits (R102, D2). -/
theorem dwordCanonical_mfsa {c : Config} (hc : KeepsCanonical c) (s : State) :
    DwordCanonical (viewNarrow c.saXfer (s.readSa c)) := by
  obtain ⟨-, -, -, -, -, hsa⟩ := hc
  by_cases hx : c.saXfer = .qword
  · exact dwordCanonical_viewNarrow _ _ (dwordCanonical_readSa c s fun hw => hsa ⟨hw, hx⟩)
  · exact dwordCanonical_viewNarrow_of_ne _ _ hx

theorem canonicalPair_div0Fill (sg : Signedness) (n : Qword) (old : HiLo) (hn : DwordCanonical n) :
    CanonicalPair (div0Fill sg n old) := by
  refine ⟨hn, ?_⟩
  cases sg
  case signed =>
    show DwordCanonical (if 0 ≤ n.toInt then _ else _)
    split <;> exact dwordCanonical_sextWord _
  case unsigned => exact dwordCanonical_sextWord _

/-- The spec's own parameters keep canonical values canonical. -/
theorem referenceConfig_keepsCanonical : KeepsCanonical referenceConfig :=
  ⟨fun sg n old hn _ _ => canonicalPair_div0Fill sg n old hn, dwordCanonical_sextWord 0, dwordCanonical_sextWord _,
    dwordCanonical_sextWord, nofun, nofun⟩

/-! The state updates keep a canonical state canonical when the value written is. -/

theorem canonical_setReg {s : State} (hs : Canonical s) (i : RegIdx) {v : Qword} (hv : DwordCanonical v) :
    Canonical (s.setReg i v) := by
  obtain ⟨hreg, hhi, hlo⟩ := hs
  refine ⟨fun j => ?_, hhi, hlo⟩
  rw [setReg_reg]
  split
  · exact hv
  · exact hreg j

theorem canonical_writeQword (c : Config) {s : State} (hs : Canonical s) (i : RegIdx) {v : Qword} (hv : DwordCanonical v) :
    Canonical (s.writeQword c i v) := by
  rcases writeQword_cases c s i v with e | ⟨-, -, e⟩ <;> rw [e]
  · exact canonical_setReg hs i hv
  · exact hs

theorem canonical_writeHi (c : Config) {s : State} (hs : Canonical s) {v : Qword} (hv : DwordCanonical v) :
    Canonical (s.writeHi c v) :=
  ⟨hs.1, dwordCanonical_viewNarrow _ _ hv, hs.2.2⟩

theorem canonical_writeLo (c : Config) {s : State} (hs : Canonical s) {v : Qword} (hv : DwordCanonical v) :
    Canonical (s.writeLo c v) :=
  ⟨hs.1, hs.2.1, dwordCanonical_viewNarrow _ _ hv⟩

theorem canonical_writeHiLo (c : Config) {s : State} (hs : Canonical s) {p : HiLo} (hp : CanonicalPair p) :
    Canonical (s.writeHiLo c p) :=
  ⟨hs.1, dwordCanonical_viewNarrow _ _ hp.1, dwordCanonical_viewNarrow _ _ hp.2⟩

/-- Under a hard-wired register 0 a register write leaves it as it was (R12). -/
theorem writeQword_reg_zero_of_hardwired {c : Config} (hc : c.r0Hardwired = true) (s : State) (i : RegIdx) (v : Qword) :
    (s.writeQword c i v).reg 0 = s.reg 0 := by
  rcases writeQword_cases c s i v with e | ⟨-, -, e⟩
  · by_cases hi : i = 0
    · simp [State.writeQword, hc, hi]
    · rw [e, setReg_reg_ne s i 0 v hi]
  · rw [e]

/-! ## The effect of a completed instruction -/

/-- The state `t` an instruction with the writes `ls` (R37) can leave when it completes from `s`: one register, HI, LO or SA
write, or a jump; and the value written is canonical where the state and the configuration's parameters are (R21). -/
inductive Effect (c : Config) (s : State) : List Loc → State → Prop
  /-- nothing is written: traps that do not fire, SYNC, a conditional move whose condition fails -/
  | unchanged (ls : List Loc) : Effect c s ls s
  | gpr (rd : RegIdx) (v : Qword) (hv : KeepsCanonical c → Canonical s → DwordCanonical v) :
      Effect c s [.gpr rd] (s.writeQword c rd v)
  | hi (v : Qword) (hv : KeepsCanonical c → Canonical s → DwordCanonical v) : Effect c s [.hi] (s.writeHi c v)
  | lo (v : Qword) (hv : KeepsCanonical c → Canonical s → DwordCanonical v) : Effect c s [.lo] (s.writeLo c v)
  | hiLo (p : HiLo) (hp : KeepsCanonical c → Canonical s → CanonicalPair p) : Effect c s [.lo, .hi] (s.writeHiLo c p)
  | sa (v : Qword) : Effect c s [.sa, .saUpper] (s.writeSa c v)
  | jump (target : Word) : Effect c s [.npc] (s.setNpc target)
  | link (rd : RegIdx) (v : Qword) (target : Word) (hv : KeepsCanonical c → Canonical s → DwordCanonical v) :
      Effect c s [.gpr rd, .npc] ((s.writeQword c rd v).setNpc target)

/-- Wherever the result is `Ok`, its state is an effect with the writes `ls`. -/
def HasEffect (c : Config) (s : State) (ls : List Loc) (r : Result) : Prop := ∀ t, r = .ok t → Effect c s ls t

theorem hasEffect_ok {c : Config} {s t : State} {ls : List Loc} (h : Effect c s ls t) : HasEffect c s ls (.ok t) :=
  fun _ e => Except.ok.inj e ▸ h

theorem hasEffect_error {c : Config} {s : State} {ls : List Loc} (f : Fault) : HasEffect c s ls (.error f) := nofun

/-- A word write is a register write of a canonical value. -/
theorem effect_writeWord (c : Config) (s : State) (rd : RegIdx) (v : Word) : Effect c s [.gpr rd] (s.writeWord c rd v) :=
  .gpr rd _ fun _ _ => dwordCanonical_sextWord v

/-- A dword write is a register write of a canonical value. -/
theorem effect_writeDword (c : Config) (s : State) (rd : RegIdx) (v : Dword) : Effect c s [.gpr rd] (s.writeDword c rd v) :=
  .gpr rd _ fun _ _ => dwordCanonical_sextDword v

theorem trappingWord_hasEffect (c : Config) (op : OverflowOp) (ov : Bool) (rd : RegIdx) (r : Word) (s : State) :
    HasEffect c s [.gpr rd] (trappingWord c op ov rd r s) := by
  rcases trappingWord_cases c op ov rd r s with ⟨-, e⟩ | ⟨-, e⟩ <;> rw [e]
  · exact hasEffect_error _
  · exact hasEffect_ok (effect_writeWord c s rd r)

theorem trappingDword_hasEffect (c : Config) (op : OverflowOp) (ov : Bool) (rd : RegIdx) (r : Dword) (s : State) :
    HasEffect c s [.gpr rd] (trappingDword c op ov rd r s) := by
  rcases trappingDword_cases c op ov rd r s with ⟨-, e⟩ | ⟨-, e⟩ <;> rw [e]
  · exact hasEffect_error _
  · exact hasEffect_ok (effect_writeDword c s rd r)

theorem moveIf_hasEffect (c : Config) (cond : Bool) (rd rs : RegIdx) (s : State) :
    HasEffect c s [.gpr rd] (moveIf c cond rd rs s) := by
  rcases moveIf_cases c cond rd rs s with ⟨-, e⟩ | ⟨-, e⟩ <;> rw [e]
  · exact hasEffect_ok (.gpr rd _ fun _ hs => hs.1 rs)
  · exact hasEffect_ok (.unchanged _)

theorem trapIf_hasEffect (c : Config) (k : TrapKind) (rs rt : RegIdx) (s : State) :
    HasEffect c s [] (trapIf c k rs rt s) := by
  rcases trapIf_cases c k rs rt s with ⟨-, e⟩ | ⟨-, e⟩ <;> rw [e]
  · exact hasEffect_error _
  · exact hasEffect_ok (.unchanged _)

/-- A completed instruction has exactly one of the effects above, on the elements the table of R37 lists for it. -/
theorem handle_hasEffect (c : Config) (i : Instr) (s : State) : HasEffect c s (writesOf i) (handle c i s) := by
  cases i with
  | sll rd | srl rd | sra rd | sllv rd | srlv rd | srav rd | addu rd | subu rd => exact hasEffect_ok (effect_writeWord ..)
  | dsllv rd | dsrlv rd | dsrav rd | dsll rd | dsrl rd | dsra rd | dsll32 rd | dsrl32 rd | dsra32 rd | daddu rd | dsubu rd =>
    exact hasEffect_ok (effect_writeDword ..)
  | add | sub => exact trappingWord_hasEffect c _ _ _ _ s
  | dadd | dsub => exact trappingDword_hasEffect c _ _ _ _ s
  | movz | movn => exact moveIf_hasEffect c _ _ _ s
  | tge | tgeu | tlt | tltu | teq | tne => exact trapIf_hasEffect c _ _ _ s
  | and rd rs rt => exact hasEffect_ok (.gpr rd _ fun _ hs => dwordCanonical_and (hs.1 rs) (hs.1 rt))
  | or rd rs rt => exact hasEffect_ok (.gpr rd _ fun _ hs => dwordCanonical_or (hs.1 rs) (hs.1 rt))
  | xor rd rs rt => exact hasEffect_ok (.gpr rd _ fun _ hs => dwordCanonical_xor (hs.1 rs) (hs.1 rt))
  | nor rd rs rt =>
    exact hasEffect_ok (.gpr rd _ fun _ hs => dwordCanonical_not (dwordCanonical_or (hs.1 rs) (hs.1 rt)))
  | slt rd | sltu rd => exact hasEffect_ok (.gpr rd _ fun _ _ => dwordCanonical_boolQword _)
  | mfhi rd => exact hasEffect_ok (.gpr rd _ fun _ hs => dwordCanonical_viewNarrow _ _ (canonicalPair_readHiLo c hs).1)
  | mflo rd => exact hasEffect_ok (.gpr rd _ fun _ hs => dwordCanonical_viewNarrow _ _ (canonicalPair_readHiLo c hs).2)
  | mfsa rd => exact hasEffect_ok (.gpr rd _ fun hc _ => dwordCanonical_mfsa hc s)
  | mthi rs => exact hasEffect_ok (.hi _ fun _ hs => dwordCanonical_viewNarrow _ _ (hs.1 rs))
  | mtlo rs => exact hasEffect_ok (.lo _ fun _ hs => dwordCanonical_viewNarrow _ _ (hs.1 rs))
  | mtsa rs => exact hasEffect_ok (.sa _)
  | mult | multu => exact hasEffect_ok (.hiLo _ fun _ _ => canonicalPair_productHiLo _)
  | div rs rt =>
    exact hasEffect_ok (.hiLo _ fun hc hs => canonicalPair_divideSigned hc _ (hs.1 rs) (canonicalPair_readHiLo c hs))
  | divu rs rt =>
    exact hasEffect_ok (.hiLo _ fun hc hs => canonicalPair_divideUnsigned hc _ (hs.1 rs) (canonicalPair_readHiLo c hs))
  | jr rs => exact hasEffect_ok (.jump _)
  | jalr rd rs => exact hasEffect_ok (.link rd _ _ fun hc _ => hc.2.2.2.1 _)
  | sync => exact hasEffect_ok (.unchanged _)
  | syscall | brk => exact hasEffect_error _

/-! What each effect keeps. -/

theorem effect_sameExcept {c : Config} {s t : State} {ls : List Loc} (h : Effect c s ls t) : SameExcept ls s t := by
  cases h with
  | unchanged => exact sameExcept_refl _ s
  | gpr rd v => exact sameExcept_writeQword _ c s rd v (by simp)
  | hi v => exact sameExcept_writeHi _ c s v (by simp)
  | lo v => exact sameExcept_writeLo _ c s v (by simp)
  | hiLo p => exact sameExcept_writeHiLo _ c s p (by simp) (by simp)
  | sa v => exact sameExcept_writeSa _ c s v (by simp) (by simp)
  | jump target => exact sameExcept_setNpc _ s target (by simp)
  | link rd v target =>
    exact sameExcept_trans _ _ _ _ (sameExcept_writeQword _ c s rd v (by simp)) (sameExcept_setNpc _ _ target (by simp))

theorem effect_keeps_canonical {c : Config} (hc : KeepsCanonical c) {s t : State} {ls : List Loc} (hs : Canonical s)
    (h : Effect c s ls t) : Canonical t := by
  cases h with
  | unchanged => exact hs
  | gpr rd v hv => exact canonical_writeQword c hs rd (hv hc hs)
  | hi v hv => exact canonical_writeHi c hs (hv hc hs)
  | lo v hv => exact canonical_writeLo c hs (hv hc hs)
  | hiLo p hp => exact canonical_writeHiLo c hs (hp hc hs)
  | sa v => exact hs
  | jump target => exact hs
  | link rd v target hv => exact canonical_writeQword c hs rd (hv hc hs)

theorem effect_reg_zero_of_hardwired {c : Config} (hc : c.r0Hardwired = true) {s t : State} {ls : List Loc}
    (h : Effect c s ls t) : t.reg 0 = s.reg 0 := by
  cases h with
  | gpr rd v | link rd v => exact writeQword_reg_zero_of_hardwired hc s rd v
  | unchanged | hi | lo | hiLo | sa | jump => rfl

/-! ## Closure (R21) -/

/-- Settles O47: each effect writes a canonical value, so it keeps the state canonical. -/
theorem handlersKeepDwordCanonicalUnderEveryConfiguration :
    Obligations.HandlersKeepDwordCanonicalUnderEveryConfiguration := by
  intro c i s t hc hs h
  exact effect_keeps_canonical hc hs (handle_hasEffect c i s t h)

/-- Settles O45: a step that goes on ran one handler on the advanced state, whose registers, HI and LO are those of `s`. -/
theorem stepKeepsRegistersDwordCanonical : Obligations.StepKeepsRegistersDwordCanonical := by
  intro s t hs h
  have hadv : Canonical s.advance := hs
  rcases step_cases s with ⟨r, -, e⟩ | ⟨w, -, ⟨u, hd, e⟩ | ⟨f, -, e⟩⟩ <;> rw [e] at h
  case inl => cases h
  case inr.inr => cases h
  case inr.inl =>
    obtain rfl : u = t := Host.Outcome.next.inj h
    rcases dispatchWord_cases referenceConfig w s.advance with ⟨i, -, ei⟩ | ⟨r, -, er⟩
    · exact handlersKeepDwordCanonicalUnderEveryConfiguration _ i _ u referenceConfig_keepsCanonical hadv (ei ▸ hd)
    · rw [er] at hd
      cases hd

/-- Settles O46: zero is the sign-extension of zero. -/
theorem resetIsDwordCanonical : Obligations.ResetIsDwordCanonical := by
  have hzero : DwordCanonical 0 := by decide
  exact ⟨fun i => (reset_reg i).symm ▸ hzero, hzero, hzero⟩

/-! ## The frame of an instruction (R37, R38) -/

theorem handle_sameExcept {c : Config} {i : Instr} {s t : State} (h : handle c i s = .ok t) : SameExcept (writesOf i) s t :=
  effect_sameExcept (handle_hasEffect c i s t h)

/-- Settles O41: every effect changes its own elements only. -/
theorem instructionsChangeOnlyTheirDeclaredWrites : Obligations.InstructionsChangeOnlyTheirDeclaredWrites :=
  ⟨fun i s t h => handle_sameExcept ((exec_next_iff i s t).mp h), fun _ _ _ _ h => handle_sameExcept h⟩

/-- The four instructions that write HI and LO together (R108, R114). -/
def IsMulDiv (i : Instr) (rs rt : RegIdx) : Prop :=
  i = .mult rs rt ∨ i = .multu rs rt ∨ i = .div rs rt ∨ i = .divu rs rt

theorem writesOf_mulDiv {i : Instr} {rs rt : RegIdx} (h : IsMulDiv i rs rt) : writesOf i = [.lo, .hi] := by
  rcases h with rfl | rfl | rfl | rfl <;> rfl

theorem hi_mem_writesOf {i : Instr} (h : Loc.hi ∈ writesOf i) : ∃ rs rt, i = .mthi rs ∨ IsMulDiv i rs rt := by
  cases i with
  | mthi rs => exact ⟨rs, rs, .inl rfl⟩
  | mult rs rt => exact ⟨rs, rt, .inr (.inl rfl)⟩
  | multu rs rt => exact ⟨rs, rt, .inr (.inr (.inl rfl))⟩
  | div rs rt => exact ⟨rs, rt, .inr (.inr (.inr (.inl rfl)))⟩
  | divu rs rt => exact ⟨rs, rt, .inr (.inr (.inr (.inr rfl)))⟩
  | _ => simp [writesOf] at h

theorem lo_mem_writesOf {i : Instr} (h : Loc.lo ∈ writesOf i) : ∃ rs rt, i = .mtlo rs ∨ IsMulDiv i rs rt := by
  cases i with
  | mtlo rs => exact ⟨rs, rs, .inl rfl⟩
  | mult rs rt => exact ⟨rs, rt, .inr (.inl rfl)⟩
  | multu rs rt => exact ⟨rs, rt, .inr (.inr (.inl rfl))⟩
  | div rs rt => exact ⟨rs, rt, .inr (.inr (.inr (.inl rfl)))⟩
  | divu rs rt => exact ⟨rs, rt, .inr (.inr (.inr (.inr rfl)))⟩
  | _ => simp [writesOf] at h

theorem sa_mem_writesOf {i : Instr} (h : Loc.sa ∈ writesOf i ∨ Loc.saUpper ∈ writesOf i) : ∃ rs, i = .mtsa rs := by
  cases i with
  | mtsa rs => exact ⟨rs, rfl⟩
  | _ => simp [writesOf] at h

theorem npc_notMem_writesOf {i : Instr} (h : isJump i = false) : Loc.npc ∉ writesOf i := by
  cases i with
  | jr | jalr => simp [isJump, Instr.op] at h
  | _ => simp [writesOf]

/-- At the reference width no instruction changes the room for a wider SA, not even MTSA (log 8). -/
theorem exec_saUpper {i : Instr} {s t : State} (h : exec i s = .next t) : t.saUpper = s.saUpper := by
  by_cases hm : ∃ rs, i = .mtsa rs
  · obtain ⟨rs, rfl⟩ := hm
    have ht : s.writeSa referenceConfig (viewNarrow .dword (s.reg rs)) = t := Host.Outcome.next.inj h
    rw [← ht, writeSa_reference, setSa_saUpper]
  · obtain ⟨-, -, -, -, hsaUpper, -⟩ := handle_sameExcept ((exec_next_iff i s t).mp h)
    exact hsaUpper fun hmem => hm (sa_mem_writesOf (.inr hmem))

/-- Settles O42: the frame of R37, read off for HI, LO and SA. -/
theorem specialRegistersChangeOnlyWhereNamed : Obligations.SpecialRegistersChangeOnlyWhereNamed := by
  intro i s t h
  obtain ⟨hreg, hhi, hlo, hsa, -⟩ := handle_sameExcept ((exec_next_iff i s t).mp h)
  refine ⟨fun hne => hi_mem_writesOf ?_, fun hne => lo_mem_writesOf ?_, fun hne => sa_mem_writesOf (.inl ?_),
    exec_saUpper h, ?_⟩
  · exact by_contra fun hmem => hne (hhi hmem)
  · exact by_contra fun hmem => hne (hlo hmem)
  · exact by_contra fun hmem => hne (hsa hmem)
  · rintro ⟨rs, rt, hi⟩ j
    exact hreg j (by simp [writesOf_mulDiv hi])

/-! ## Register 0 (R12) -/

/-- A host write leaves a hard-wired register 0 as it was. -/
theorem hostWrite_reg_zero_of_hardwired {c : Config} (hc : c.r0Hardwired = true) (s : State) (w : HostWrite) :
    (s.hostWrite c w).reg 0 = s.reg 0 := by
  cases w with
  | gprWord i | gprDword i | gprQword i => exact writeQword_reg_zero_of_hardwired hc s i _
  | hi | lo | sa | pc | npc => rfl

/-- Settles O51: no effect and no host write reaches a hard-wired register 0; an ordinary one is written by NOR. -/
theorem hardwiredVariantNeverChangesRegisterZero : Obligations.HardwiredVariantNeverChangesRegisterZero := by
  refine ⟨fun c hc s => ⟨fun i t h => ?_, hostWrite_reg_zero_of_hardwired hc s⟩, fun s => ?_⟩
  · exact effect_reg_zero_of_hardwired hc (handle_hasEffect c i s t h)
  · refine ⟨s.setReg 0 (~~~(s.reg 0 ||| s.reg 0)), rfl, ?_, sameExcept_setReg _ s 0 _ (by simp)⟩
    rw [setReg_reg_same, BitVec.or_self]

end Sys2Proof.Machine
end

section
/-! PROOFS, spec/10_state.md (2): every handler but the jumps reaches the state only through the register file and HI, LO, SA. So it
commutes with every change of the state that renames the registers and leaves HI, LO and SA alone: a new pc (R25), a new npc (R26),
a permutation of the registers (R12). -/

namespace Sys2Proof.Machine

/-- `T` renames the registers by `f`, keeps what HI, LO and SA hold, and commutes with every write of them. -/
structure Renames (c : Config) (f : RegIdx → RegIdx) (T : State → State) : Prop where
  reg : ∀ s i, (T s).reg (f i) = s.reg i
  hi : ∀ s, (T s).hi = s.hi
  lo : ∀ s, (T s).lo = s.lo
  sa : ∀ s, (T s).sa = s.sa
  saUpper : ∀ s, (T s).saUpper = s.saUpper
  writeQword : ∀ s i v, T (s.writeQword c i v) = (T s).writeQword c (f i) v
  setHi : ∀ s v, T (s.setHi v) = (T s).setHi v
  setLo : ∀ s v, T (s.setLo v) = (T s).setLo v
  setHiLo : ∀ s p, T (s.setHiLo p) = (T s).setHiLo p
  setSa : ∀ s v, T (s.setSa v) = (T s).setSa v
  setSaUpper : ∀ s v, T (s.setSaUpper v) = (T s).setSaUpper v

/-- A handler's answer seen through the renaming: the renamed state, or the fault with its indices renamed. -/
def renameResult (f : RegIdx → RegIdx) (T : State → State) : Result → Result
  | .ok s => .ok (T s)
  | .error x => .error (renameFault f x)

section
variable {c : Config} {f : RegIdx → RegIdx} {T : State → State} (h : Renames c f T)
include h

/-! Reads of the renamed state. -/

theorem Renames.readWord (s : State) (i : RegIdx) : (T s).readWord (f i) = s.readWord i := congrArg lowWord (h.reg s i)

theorem Renames.readDword (s : State) (i : RegIdx) : (T s).readDword (f i) = s.readDword i := congrArg lowDword (h.reg s i)

theorem Renames.readQword (s : State) (i : RegIdx) : (T s).readQword (f i) = s.readQword i := h.reg s i

theorem Renames.shiftAmount5 (s : State) (i : RegIdx) : (T s).shiftAmount5 (f i) = s.shiftAmount5 i :=
  congrArg (fun v : Qword => (v.setWidth 5).toNat) (h.reg s i)

theorem Renames.shiftAmount6 (s : State) (i : RegIdx) : (T s).shiftAmount6 (f i) = s.shiftAmount6 i :=
  congrArg (fun v : Qword => (v.setWidth 6).toNat) (h.reg s i)

theorem Renames.readHi (s : State) : (T s).readHi c = s.readHi c := congrArg (viewNarrow c.hiWidth) (h.hi s)

theorem Renames.readLo (s : State) : (T s).readLo c = s.readLo c := congrArg (viewNarrow c.loWidth) (h.lo s)

theorem Renames.readHiLo (s : State) : (T s).readHiLo c = s.readHiLo c := congrArg₂ HiLo.mk (h.readHi s) (h.readLo s)

theorem Renames.readSa (s : State) : (T s).readSa c = s.readSa c := by
  simp only [State.readSa, h.sa, h.saUpper]

/-! Answers of the shared operations: each writes in the renamed state what it writes in `s`. -/

theorem Renames.ok_writeQword (s : State) (rd : RegIdx) {v w : Qword} (hv : v = w) :
    .ok ((T s).writeQword c (f rd) v) = renameResult f T (.ok (s.writeQword c rd w)) := by
  rw [hv, renameResult, h.writeQword]

theorem Renames.ok_writeWord (s : State) (rd : RegIdx) {v w : Word} (hv : v = w) :
    .ok ((T s).writeWord c (f rd) v) = renameResult f T (.ok (s.writeWord c rd w)) :=
  h.ok_writeQword s rd (congrArg sextWord hv)

theorem Renames.ok_writeDword (s : State) (rd : RegIdx) {v w : Dword} (hv : v = w) :
    .ok ((T s).writeDword c (f rd) v) = renameResult f T (.ok (s.writeDword c rd w)) :=
  h.ok_writeQword s rd (congrArg sextDword hv)

theorem Renames.ok_writeHi (s : State) {v w : Qword} (hv : v = w) :
    .ok ((T s).writeHi c v) = renameResult f T (.ok (s.writeHi c w)) := by
  rw [hv, renameResult, State.writeHi, State.writeHi, h.setHi]

theorem Renames.ok_writeLo (s : State) {v w : Qword} (hv : v = w) :
    .ok ((T s).writeLo c v) = renameResult f T (.ok (s.writeLo c w)) := by
  rw [hv, renameResult, State.writeLo, State.writeLo, h.setLo]

theorem Renames.ok_writeHiLo (s : State) {p q : HiLo} (hp : p = q) :
    .ok ((T s).writeHiLo c p) = renameResult f T (.ok (s.writeHiLo c q)) := by
  rw [hp, renameResult, State.writeHiLo, State.writeHiLo, h.setHiLo]

theorem Renames.ok_writeSa (s : State) {v w : Qword} (hv : v = w) :
    .ok ((T s).writeSa c v) = renameResult f T (.ok (s.writeSa c w)) := by
  rw [hv, renameResult, State.writeSa, State.writeSa, h.setSaUpper, h.setSa, h.saUpper]

theorem Renames.trappingWord_eq (op : OverflowOp) (s : State) (rd : RegIdx) {ov ov' : Bool} {r r' : Word} (hov : ov = ov')
    (hr : r = r') : trappingWord c op ov (f rd) r (T s) = renameResult f T (trappingWord c op ov' rd r' s) := by
  subst hov hr
  cases ov
  · exact h.ok_writeWord s rd rfl
  · rfl

theorem Renames.trappingDword_eq (op : OverflowOp) (s : State) (rd : RegIdx) {ov ov' : Bool} {r r' : Dword} (hov : ov = ov')
    (hr : r = r') : trappingDword c op ov (f rd) r (T s) = renameResult f T (trappingDword c op ov' rd r' s) := by
  subst hov hr
  cases ov
  · exact h.ok_writeDword s rd rfl
  · rfl

theorem Renames.moveIf_eq (s : State) (rd rs : RegIdx) {cond cond' : Bool} (hcond : cond = cond') :
    moveIf c cond (f rd) (f rs) (T s) = renameResult f T (moveIf c cond' rd rs s) := by
  subst hcond
  cases cond
  · rfl
  · exact h.ok_writeQword s rd (h.reg s rs)

theorem Renames.trapIf_eq (k : TrapKind) (s : State) (rs rt : RegIdx) :
    trapIf c k (f rs) (f rt) (T s) = renameResult f T (trapIf c k rs rt s) := by
  unfold trapIf
  rw [h.reg, h.reg]
  split <;> rfl

/-- The renamed instruction, on the renamed state, answers the renamed answer: for every instruction that is no jump. -/
theorem Renames.handle_eq {i : Instr} (hj : isJump i = false) (s : State) :
    handle c (renameInstr f i) (T s) = renameResult f T (handle c i s) := by
  cases i with
  | sll rd rt sa => exact h.ok_writeWord s rd (congrArg (shiftLeft · sa.toNat) (h.readWord s rt))
  | srl rd rt sa => exact h.ok_writeWord s rd (congrArg (shiftRight · sa.toNat) (h.readWord s rt))
  | sra rd rt sa => exact h.ok_writeWord s rd (congrArg (shiftArith · sa.toNat) (h.readWord s rt))
  | sllv rd rt rs => exact h.ok_writeWord s rd (congrArg₂ shiftLeft (h.readWord s rt) (h.shiftAmount5 s rs))
  | srlv rd rt rs => exact h.ok_writeWord s rd (congrArg₂ shiftRight (h.readWord s rt) (h.shiftAmount5 s rs))
  | srav rd rt rs => exact h.ok_writeWord s rd (congrArg₂ shiftArith (h.readWord s rt) (h.shiftAmount5 s rs))
  | dsllv rd rt rs => exact h.ok_writeDword s rd (congrArg₂ shiftLeft (h.readDword s rt) (h.shiftAmount6 s rs))
  | dsrlv rd rt rs => exact h.ok_writeDword s rd (congrArg₂ shiftRight (h.readDword s rt) (h.shiftAmount6 s rs))
  | dsrav rd rt rs => exact h.ok_writeDword s rd (congrArg₂ shiftArith (h.readDword s rt) (h.shiftAmount6 s rs))
  | dsll rd rt | dsll32 rd rt => exact h.ok_writeDword s rd (congrArg (shiftLeft · _) (h.readDword s rt))
  | dsrl rd rt | dsrl32 rd rt => exact h.ok_writeDword s rd (congrArg (shiftRight · _) (h.readDword s rt))
  | dsra rd rt | dsra32 rd rt => exact h.ok_writeDword s rd (congrArg (shiftArith · _) (h.readDword s rt))
  | jr | jalr => simp [isJump, Instr.op] at hj
  | movz rd rs rt => exact h.moveIf_eq s rd rs (congrArg (testsZero c.movzTestWidth) (h.reg s rt))
  | movn rd rs rt => exact h.moveIf_eq s rd rs (congrArg (!testsZero c.movzTestWidth ·) (h.reg s rt))
  | syscall | brk | sync => rfl
  | mfhi rd => exact h.ok_writeQword s rd (congrArg (viewNarrow c.hiloXfer) (h.readHi s))
  | mflo rd => exact h.ok_writeQword s rd (congrArg (viewNarrow c.hiloXfer) (h.readLo s))
  | mfsa rd => exact h.ok_writeQword s rd (congrArg (viewNarrow c.saXfer) (h.readSa s))
  | mthi rs => exact h.ok_writeHi s (congrArg (viewNarrow c.hiloXfer) (h.reg s rs))
  | mtlo rs => exact h.ok_writeLo s (congrArg (viewNarrow c.hiloXfer) (h.reg s rs))
  | mtsa rs => exact h.ok_writeSa s (congrArg (viewNarrow c.saXfer) (h.reg s rs))
  | mult rs rt => exact h.ok_writeHiLo s (by rw [h.readWord, h.readWord])
  | multu rs rt => exact h.ok_writeHiLo s (by rw [h.readWord, h.readWord])
  | div rs rt | divu rs rt => exact h.ok_writeHiLo s (by rw [h.reg, h.reg, h.readHiLo])
  | add rd rs rt =>
    exact h.trappingWord_eq .add s rd (congrArg₂ addOverflows (h.readWord s rs) (h.readWord s rt))
      (congrArg₂ (· + ·) (h.readWord s rs) (h.readWord s rt))
  | sub rd rs rt =>
    exact h.trappingWord_eq .sub s rd (congrArg₂ subOverflows (h.readWord s rs) (h.readWord s rt))
      (congrArg₂ (· - ·) (h.readWord s rs) (h.readWord s rt))
  | dadd rd rs rt =>
    exact h.trappingDword_eq .dadd s rd (congrArg₂ addOverflows (h.readDword s rs) (h.readDword s rt))
      (congrArg₂ (· + ·) (h.readDword s rs) (h.readDword s rt))
  | dsub rd rs rt =>
    exact h.trappingDword_eq .dsub s rd (congrArg₂ subOverflows (h.readDword s rs) (h.readDword s rt))
      (congrArg₂ (· - ·) (h.readDword s rs) (h.readDword s rt))
  | addu rd rs rt => exact h.ok_writeWord s rd (congrArg₂ (· + ·) (h.readWord s rs) (h.readWord s rt))
  | subu rd rs rt => exact h.ok_writeWord s rd (congrArg₂ (· - ·) (h.readWord s rs) (h.readWord s rt))
  | daddu rd rs rt => exact h.ok_writeDword s rd (congrArg₂ (· + ·) (h.readDword s rs) (h.readDword s rt))
  | dsubu rd rs rt => exact h.ok_writeDword s rd (congrArg₂ (· - ·) (h.readDword s rs) (h.readDword s rt))
  | and rd rs rt => exact h.ok_writeQword s rd (congrArg₂ (· &&& ·) (h.reg s rs) (h.reg s rt))
  | or rd rs rt => exact h.ok_writeQword s rd (congrArg₂ (· ||| ·) (h.reg s rs) (h.reg s rt))
  | xor rd rs rt => exact h.ok_writeQword s rd (congrArg₂ (· ^^^ ·) (h.reg s rs) (h.reg s rt))
  | nor rd rs rt => exact h.ok_writeQword s rd (congrArg₂ (fun a b => ~~~(a ||| b)) (h.reg s rs) (h.reg s rt))
  | slt rd rs rt =>
    exact h.ok_writeQword s rd (congrArg₂ (fun a b => boolQword (lessSigned a b)) (h.readDword s rs) (h.readDword s rt))
  | sltu rd rs rt =>
    exact h.ok_writeQword s rd (congrArg₂ (fun a b => boolQword (lessUnsigned a b)) (h.readDword s rs) (h.readDword s rt))
  | tge | tgeu | tlt | tltu | teq | tne => exact h.trapIf_eq _ s _ _

end

/-! The renaming that keeps every index. -/

theorem renameInstr_id (i : Instr) : renameInstr id i = i := by cases i <;> rfl

theorem renameResult_id (T : State → State) (r : Result) : renameResult id T r = r.map T := by
  cases r with
  | ok s => rfl
  | error x => cases x <;> rfl

/-- A change of the state that no read or write of the registers, HI, LO and SA sees commutes with every handler but the jumps. -/
theorem Renames.handle_eq_map {c : Config} {T : State → State} (h : Renames c id T) {i : Instr} (hj : isJump i = false) (s : State) :
    handle c i (T s) = (handle c i s).map T := by
  have hr := h.handle_eq hj s
  rwa [renameInstr_id, renameResult_id] at hr

/-- A register write commutes with a new pc. -/
theorem writeQword_setPc (c : Config) (s : State) (i : RegIdx) (v : Qword) (p : Word) :
    (s.setPc p).writeQword c i v = (s.writeQword c i v).setPc p := by
  unfold State.writeQword
  split <;> rfl

/-- A register write commutes with a new npc. -/
theorem writeQword_setNpc (c : Config) (s : State) (i : RegIdx) (v : Qword) (p : Word) :
    (s.setNpc p).writeQword c i v = (s.writeQword c i v).setNpc p := by
  unfold State.writeQword
  split <;> rfl

theorem renames_setPc (c : Config) (p : Word) : Renames c id (·.setPc p) where
  reg _ _ := rfl
  hi _ := rfl
  lo _ := rfl
  sa _ := rfl
  saUpper _ := rfl
  writeQword s i v := (writeQword_setPc c s i v p).symm
  setHi _ _ := rfl
  setLo _ _ := rfl
  setHiLo _ _ := rfl
  setSa _ _ := rfl
  setSaUpper _ _ := rfl

theorem renames_setNpc (c : Config) (p : Word) : Renames c id (·.setNpc p) where
  reg _ _ := rfl
  hi _ := rfl
  lo _ := rfl
  sa _ := rfl
  saUpper _ := rfl
  writeQword s i v := (writeQword_setNpc c s i v p).symm
  setHi _ _ := rfl
  setLo _ _ := rfl
  setHiLo _ _ := rfl
  setSa _ _ := rfl
  setSaUpper _ _ := rfl

/-- A permutation of the registers, where register 0 is ordinary (R12). -/
theorem renames_permuteRegs {c : Config} (hc : c.r0Hardwired = false) {f g : RegIdx → RegIdx} (hgf : ∀ i, g (f i) = i)
    (hfg : ∀ i, f (g i) = i) : Renames c f (permuteRegs g) where
  reg s i := by rw [permuteRegs_reg, hgf]
  hi := permuteRegs_hi g
  lo := permuteRegs_lo g
  sa := permuteRegs_sa g
  saUpper := permuteRegs_saUpper g
  writeQword s i v := by simp [State.writeQword, hc, permuteRegs_setReg f g hgf hfg]
  setHi _ _ := rfl
  setLo _ _ := rfl
  setHiLo _ _ := rfl
  setSa _ _ := rfl
  setSaUpper _ _ := rfl

/-- The jumps are JR and JALR. -/
theorem isJump_cases (i : Instr) : isJump i = false ∨ (∃ rs, i = .jr rs) ∨ ∃ rd rs, i = .jalr rd rs := by
  cases i with
  | jr rs => exact .inr (.inl ⟨rs, rfl⟩)
  | jalr rd rs => exact .inr (.inr ⟨rd, rs, rfl⟩)
  | _ => exact .inl rfl

/-- JALR reads pc and writes npc last (R91). -/
theorem handle_jalr (c : Config) (rd rs : RegIdx) (s : State) :
    handle c (.jalr rd rs) s = .ok ((s.writeQword c rd (c.linkWrite (s.pc + 8))).setNpc (s.readWord rs)) := rfl

theorem permuteRegs_setNpc (g : RegIdx → RegIdx) (s : State) (v : Word) :
    permuteRegs g (s.setNpc v) = (permuteRegs g s).setNpc v := rfl

/-- Settles O43: the frame leaves pc out of every instruction's writes; JR, like every instruction that is no jump, commutes with
a new pc. -/
theorem noInstructionWritesPcAndOnlyJalrReadsIt : Obligations.NoInstructionWritesPcAndOnlyJalrReadsIt := by
  refine fun c i s p => ⟨fun t h => ?_, fun hjalr => ?_⟩
  · obtain ⟨-, -, -, -, -, -, hpc, -⟩ := handle_sameExcept h
    exact hpc
  · rcases isJump_cases i with hj | ⟨rs, rfl⟩ | ⟨rd, rs, rfl⟩
    · exact (renames_setPc c p).handle_eq_map hj s
    · rfl
    · exact absurd rfl (hjalr rd rs)

/-- Settles O44: npc is among the writes of no instruction but a jump, and a jump overwrites it. -/
theorem onlyJumpsTouchNextPc : Obligations.OnlyJumpsTouchNextPc := by
  refine fun c i s p => ⟨fun hj => ⟨fun t h => ?_, (renames_setNpc c p).handle_eq_map hj s⟩, fun hj => ?_⟩
  · obtain ⟨-, -, -, -, -, hnpc, -⟩ := handle_sameExcept h
    exact hnpc (npc_notMem_writesOf hj)
  · rcases isJump_cases i with hn | ⟨rs, rfl⟩ | ⟨rd, rs, rfl⟩
    · exact absurd (hj.symm.trans hn) nofun
    · rfl
    · rw [handle_jalr, handle_jalr, setNpc_pc, writeQword_setNpc]
      rfl

/-- Renaming the registers by a permutation commutes with every instruction of the reference core, the jumps included. -/
theorem handle_permuteRegs {f g : RegIdx → RegIdx} (hgf : ∀ i, g (f i) = i) (hfg : ∀ i, f (g i) = i) (i : Instr) (s : State) :
    handle referenceConfig (renameInstr f i) (permuteRegs g s) =
      renameResult f (permuteRegs g) (handle referenceConfig i s) := by
  have h : Renames referenceConfig f (permuteRegs g) := renames_permuteRegs rfl hgf hfg
  rcases isJump_cases i with hj | ⟨rs, rfl⟩ | ⟨rd, rs, rfl⟩
  · exact h.handle_eq hj s
  · exact congrArg (fun v => Except.ok ((permuteRegs g s).setNpc v)) (h.readWord s rs)
  · rw [renameInstr, handle_jalr, handle_jalr, permuteRegs_pc, h.readWord, ← h.writeQword, renameResult, permuteRegs_setNpc]

/-- Settles O50: the renamed answer is the renamed next state or the renamed fault. -/
theorem noRegisterIndexIsSpecial : Obligations.NoRegisterIndexIsSpecial := by
  refine fun f g hgf hfg i s => ⟨fun t h => ?_, fun x h => ?_⟩
  · rw [exec_next_iff] at h ⊢
    rw [handle_permuteRegs hgf hfg, h]
    rfl
  · rw [exec_fault_iff] at h ⊢
    rw [handle_permuteRegs hgf hfg, h]
    rfl

end Sys2Proof.Machine
end

section
/-! PROOFS, spec/10_state.md (3): on canonical values the dword and the qword view compare alike, so the open widths (D1, D8, D9) do
not show on canonical states (R21). -/

namespace Sys2Proof.Machine

theorem toNat_sextDword (d : Dword) :
    (sextDword d).toNat = if d.toNat < 2 ^ 63 then d.toNat else d.toNat + (2 ^ 128 - 2 ^ 64) := by
  have hd : d.toNat < 2 ^ 64 := d.isLt
  rw [sextDword, BitVec.toNat_signExtend, BitVec.msb_eq_decide, BitVec.toNat_setWidth, Nat.mod_eq_of_lt (by omega)]
  simp only [decide_eq_true_eq]
  split <;> split <;> omega

theorem toInt_sextDword (d : Dword) : (sextDword d).toInt = d.toInt := BitVec.toInt_signExtend_of_le (by decide)

/-- On canonical values the signed qword view is the signed dword view. -/
theorem viewSigned_qword_of_canonical {a : Qword} (ha : DwordCanonical a) : viewSigned .qword a = viewSigned .dword a := by
  have h := toInt_sextDword (lowDword a)
  rwa [ha] at h

/-- On canonical values the unsigned qword view is ordered as the unsigned dword view. -/
theorem viewUnsigned_qword_lt_iff {a b : Qword} (ha : DwordCanonical a) (hb : DwordCanonical b) :
    viewUnsigned .qword a < viewUnsigned .qword b ↔ viewUnsigned .dword a < viewUnsigned .dword b := by
  have hna := toNat_sextDword (lowDword a)
  have hnb := toNat_sextDword (lowDword b)
  rw [ha] at hna
  rw [hb] at hnb
  have hla : (lowDword a).toNat < 2 ^ 64 := (lowDword a).isLt
  have hlb : (lowDword b).toNat < 2 ^ 64 := (lowDword b).isLt
  simp only [viewUnsigned, hna, hnb]
  split <;> split <;> omega

theorem viewUnsigned_qword_eq_iff {a b : Qword} (ha : DwordCanonical a) (hb : DwordCanonical b) :
    viewUnsigned .qword a = viewUnsigned .qword b ↔ viewUnsigned .dword a = viewUnsigned .dword b := by
  have hab := viewUnsigned_qword_lt_iff ha hb
  have hba := viewUnsigned_qword_lt_iff hb ha
  omega

/-- On canonical values every trap decides alike under the qword and the dword view (D8). -/
theorem trapHolds_qword_of_canonical {a b : Qword} (ha : DwordCanonical a) (hb : DwordCanonical b) (k : TrapKind) :
    trapHolds .qword k a b = trapHolds .dword k a b := by
  cases k with
  | tge | tlt => simp only [trapHolds, viewSigned_qword_of_canonical ha, viewSigned_qword_of_canonical hb]
  | tgeu => simp only [trapHolds, ge_iff_le, ← not_lt, viewUnsigned_qword_lt_iff ha hb]
  | tltu => simp only [trapHolds, viewUnsigned_qword_lt_iff ha hb]
  | teq | tne => simp only [trapHolds, ne_eq, viewUnsigned_qword_eq_iff ha hb]

/-- On canonical values MOVZ and MOVN decide alike under the dword and the qword test (D9). -/
theorem testsZero_dword_of_canonical {x : Qword} (hx : DwordCanonical x) : testsZero .dword x = testsZero .qword x := by
  have hzero : DwordCanonical 0 := by decide
  exact decide_eq_decide.mpr (viewUnsigned_qword_eq_iff hx hzero).symm

/-- D8: the qword TRAP_VIEW does not show on canonical states. -/
theorem handle_trapView_qword (i : Instr) {s : State} (hs : Canonical s) :
    handle { referenceConfig with trapView := .qword } i s = handle referenceConfig i s := by
  have trap (k : TrapKind) (rs rt : RegIdx) :
      trapIf { referenceConfig with trapView := .qword } k rs rt s = trapIf referenceConfig k rs rt s :=
    congrArg (fun b : Bool => if b then raiseFault (.trap k rs rt) else .ok s)
      (trapHolds_qword_of_canonical (hs.1 rs) (hs.1 rt) k)
  cases i with
  | tge rs rt | tgeu rs rt | tlt rs rt | tltu rs rt | teq rs rt | tne rs rt => exact trap _ rs rt
  | _ => rfl

/-- D9: the dword MOVZ_TEST_WIDTH does not show on canonical states. -/
theorem handle_movzTestWidth_dword (i : Instr) {s : State} (hs : Canonical s) :
    handle { referenceConfig with movzTestWidth := .dword } i s = handle referenceConfig i s := by
  cases i with
  | movz rd rs rt =>
    exact congrArg (fun b => moveIf referenceConfig b rd rs s) (testsZero_dword_of_canonical (hs.1 rt))
  | movn rd rs rt =>
    exact congrArg (fun b => moveIf referenceConfig (!b) rd rs s) (testsZero_dword_of_canonical (hs.1 rt))
  | _ => rfl

/-- D1: the dword HILO_XFER does not show on canonical states. -/
theorem handle_hiloXfer_dword (i : Instr) {s : State} (hs : Canonical s) :
    handle { referenceConfig with hiloXfer := .dword } i s = handle referenceConfig i s := by
  obtain ⟨hreg, hhi, hlo⟩ := hs
  cases i with
  | mfhi rd => exact congrArg (fun v => Except.ok (s.setReg rd v)) hhi
  | mflo rd => exact congrArg (fun v => Except.ok (s.setReg rd v)) hlo
  | mthi rs => exact congrArg (fun v => Except.ok (s.setHi v)) (hreg rs)
  | mtlo rs => exact congrArg (fun v => Except.ok (s.setLo v)) (hreg rs)
  | _ => rfl

/-- The configuration of D1's narrow reading: HI and LO of 64 bits, and their transfers too. -/
def narrowHiLoConfig : Config := { referenceConfig with hiWidth := .dword, loWidth := .dword, hiloXfer := .dword }

theorem readHiLo_narrowHiLo {s : State} (hs : Canonical s) : s.readHiLo narrowHiLoConfig = ⟨s.hi, s.lo⟩ :=
  congrArg₂ HiLo.mk hs.2.1 hs.2.2

/-- A canonical pair fits HI and LO of 64 bits. -/
theorem writeHiLo_narrowHiLo (s : State) {p : HiLo} (hp : CanonicalPair p) : s.writeHiLo narrowHiLoConfig p = s.setHiLo p :=
  congrArg s.setHiLo (congrArg₂ HiLo.mk hp.1 hp.2)

/-- Narrowing a canonical value twice leaves it as it is. -/
theorem viewNarrow_dword_twice {x : Qword} (hx : DwordCanonical x) : viewNarrow .dword (viewNarrow .dword x) = x := by
  rw [viewNarrow_viewNarrow, viewNarrow_dword_of_canonical x hx]

/-- D1: HI and LO of 64 bits do not show on canonical states. -/
theorem handle_narrowHiLo (i : Instr) {s : State} (hs : Canonical s) : handle narrowHiLoConfig i s = handle referenceConfig i s := by
  have hold : CanonicalPair ⟨s.hi, s.lo⟩ := hs.2
  have ⟨hreg, hhi, hlo⟩ := hs
  cases i with
  | mfhi rd => exact congrArg (fun v => Except.ok (s.setReg rd v)) (viewNarrow_dword_twice hhi)
  | mflo rd => exact congrArg (fun v => Except.ok (s.setReg rd v)) (viewNarrow_dword_twice hlo)
  | mthi rs => exact congrArg (fun v => Except.ok (s.setHi v)) (viewNarrow_dword_twice (hreg rs))
  | mtlo rs => exact congrArg (fun v => Except.ok (s.setLo v)) (viewNarrow_dword_twice (hreg rs))
  | mult | multu => exact congrArg Except.ok (writeHiLo_narrowHiLo s (canonicalPair_productHiLo _))
  | div rs rt =>
    show Except.ok (s.writeHiLo narrowHiLoConfig (divideSigned referenceConfig _ _ (s.readHiLo narrowHiLoConfig))) = _
    rw [readHiLo_narrowHiLo hs,
      writeHiLo_narrowHiLo s (canonicalPair_divideSigned referenceConfig_keepsCanonical _ (hreg rs) hold)]
    rfl
  | divu rs rt =>
    show Except.ok (s.writeHiLo narrowHiLoConfig (divideUnsigned referenceConfig _ _ (s.readHiLo narrowHiLoConfig))) = _
    rw [readHiLo_narrowHiLo hs,
      writeHiLo_narrowHiLo s (canonicalPair_divideUnsigned referenceConfig_keepsCanonical _ (hreg rs) hold)]
    rfl
  | _ => rfl

/-- Settles O48: one lemma per open reading. -/
theorem openWidthsDoNotShowOnCanonicalStates : Obligations.OpenWidthsDoNotShowOnCanonicalStates :=
  fun i _ hs => ⟨handle_trapView_qword i hs, handle_movzTestWidth_dword i hs, handle_hiloXfer_dword i hs,
    handle_narrowHiLo i hs⟩

end Sys2Proof.Machine
end

section
/-! PROOFS, spec/10_state.md (4): the register accessors (R13 to R18), host writes (R20, R35), reset (R36) and the faulting call
(R32). -/

namespace Sys2Proof.Machine

/-! Bits of a sign-extension: the value's own, then copies of its top bit (R14, R16). -/

theorem getLsbD_sextWord (v : Word) {k : Nat} (hk : k < 128) : (sextWord v).getLsbD k = v.getLsbD (min k 31) := by
  simp only [sextWord, BitVec.getLsbD_signExtend, BitVec.msb_eq_getLsbD_last, hk, decide_true, Bool.true_and]
  split
  · next h => rw [min_eq_left (by omega)]
  · next h => rw [min_eq_right (by omega)]

theorem getLsbD_sextDword (d : Dword) {k : Nat} (hk : k < 128) : (sextDword d).getLsbD k = d.getLsbD (min k 63) := by
  simp only [sextDword, BitVec.getLsbD_signExtend, BitVec.msb_eq_getLsbD_last, hk, decide_true, Bool.true_and]
  split
  · next h => rw [min_eq_left (by omega)]
  · next h => rw [min_eq_right (by omega)]

theorem getLsbD_lowWord (q : Qword) {k : Nat} (hk : k < 32) : (lowWord q).getLsbD k = q.getLsbD k := by
  rw [lowWord, BitVec.getLsbD_setWidth, decide_eq_true hk, Bool.true_and]

theorem getLsbD_lowDword (q : Qword) {k : Nat} (hk : k < 64) : (lowDword q).getLsbD k = q.getLsbD k := by
  rw [lowDword, BitVec.getLsbD_setWidth, decide_eq_true hk, Bool.true_and]

/-- The dword view of a word write: the word, sign-extended to 64 bits (R20). -/
theorem lowDword_sextWord (v : Word) : lowDword (sextWord v) = v.signExtend 64 := by
  refine BitVec.eq_of_getLsbD_eq fun k hk => ?_
  rw [getLsbD_lowDword _ hk]
  simp only [sextWord, BitVec.getLsbD_signExtend, hk, show k < 128 by omega]

/-- The word view of a dword write: its low word (R20). -/
theorem lowWord_sextDword (d : Dword) : lowWord (sextDword d) = d.setWidth 32 := by
  refine BitVec.eq_of_getLsbD_eq fun k hk => ?_
  rw [getLsbD_lowWord _ hk, getLsbD_sextDword d (by omega), min_eq_left (by omega), BitVec.getLsbD_setWidth,
    decide_eq_true hk, Bool.true_and]

/-- Where register 0 is ordinary a register write sets the register (R12, R18). -/
theorem writeQword_of_ordinary {c : Config} (hc : c.r0Hardwired = false) (s : State) (i : RegIdx) (v : Qword) :
    s.writeQword c i v = s.setReg i v := by
  rcases writeQword_cases c s i v with e | ⟨hw, -, -⟩
  · exact e
  · exact absurd (hc.symm.trans hw) nofun

/-- Settles O2: a write accessor sets its register to the sign-extension, and reads cut the register. -/
theorem accessorsReadLowBitsAndWritesReplaceTheRegister : Obligations.AccessorsReadLowBitsAndWritesReplaceTheRegister := by
  intro s i v d q
  have hframe (x : Qword) : SameExcept [.gpr i] s (s.setReg i x) := sameExcept_setReg _ s i x (by simp)
  refine ⟨fun k hk => getLsbD_lowWord _ hk, fun k hk => getLsbD_lowDword _ hk, rfl, fun k hk => ?_, fun k hk => ?_,
    setReg_reg_same s i q, hframe _, hframe _, hframe _⟩
  · rw [writeWord_reference, setReg_reg_same, getLsbD_sextWord v hk]
  · rw [writeDword_reference, setReg_reg_same, getLsbD_sextDword d hk]

/-- The three reads of a register after `x` was written to it, and the frame (R20). -/
theorem reads_of_setReg (s : State) (i : RegIdx) (x : Qword) :
    (s.setReg i x).readWord i = lowWord x ∧ (s.setReg i x).readDword i = lowDword x ∧ (s.setReg i x).readQword i = x ∧
      SameExcept [.gpr i] s (s.setReg i x) :=
  ⟨congrArg lowWord (setReg_reg_same s i x), congrArg lowDword (setReg_reg_same s i x), setReg_reg_same s i x,
    sameExcept_setReg _ s i x (by simp)⟩

/-- Settles O3: each register write is a `setReg` of a sign-extension, whose views are the entries of R20's table. -/
theorem hostWritesReadBackAtEveryWidth : Obligations.HostWritesReadBackAtEveryWidth := by
  intro c hc s i v d q
  have hset (x : Qword) : s.writeQword c i x = s.setReg i x := writeQword_of_ordinary hc s i x
  have hword := reads_of_setReg s i (sextWord v)
  have hdword := reads_of_setReg s i (sextDword d)
  have hqword := reads_of_setReg s i q
  rw [← hset, lowWord_sextWord, lowDword_sextWord] at hword
  rw [← hset, lowWord_sextDword, lowDword_sextDword] at hdword
  rw [← hset] at hqword
  refine ⟨hword, hdword, hqword,
    ⟨writeHi_readHi c s q, fun hw => ?_, sameExcept_writeHi _ c s q (by simp)⟩,
    ⟨writeLo_readLo c s q, fun hw => ?_, sameExcept_writeLo _ c s q (by simp)⟩,
    ⟨writeSa_readSa c s q, sameExcept_writeSa _ c s q (by simp) (by simp), fun hw => ⟨?_, ?_⟩⟩, rfl, rfl⟩
  · show viewNarrow c.hiWidth q = q
    rw [hw, viewNarrow_qword]
  · show viewNarrow c.loWidth q = q
    rw [hw, viewNarrow_qword]
  · show saLow c.saWidth q = q.setWidth 64
    rw [hw]
    rfl
  · exact sameExcept_writeSa_of_ne _ c s q (by simp) (hw ▸ nofun)

/-- Settles O1: the elements of the reset state, and the fetch at its aligned pc 0. -/
theorem resetStateIsAllZeroWithNextPcFour : Obligations.ResetStateIsAllZeroWithNextPcFour := by
  refine ⟨reset_reg, rfl, rfl, rfl, rfl, rfl, fun c m w h => ?_⟩
  have haligned : ¬(0 : Word).setWidth 2 ≠ 0 := by decide
  exact (if_neg haligned).trans (by rw [show State.reset.pc = 0 from rfl, h])

/-- Settles O40: of the two answers of a call, the fault carries the state the call began with. -/
theorem faultingCallChangesNoState : Obligations.FaultingCallChangesNoState := by
  intro c w s s' f h
  rcases execute_cases c w s with ⟨t, -, e⟩ | ⟨g, -, e⟩
  · exact absurd (congrArg Prod.snd (e.symm.trans h)) nofun
  · exact (congrArg Prod.fst (e.symm.trans h)).symm

end Sys2Proof.Machine
end

section
/-! PROOFS, spec/20_memory.md: what a byte of the text reads as after a word was placed (R41 to R43), and that no step writes the
text (R40, R49). -/

namespace Sys2Proof.Machine

/-- The four byte addresses of an aligned word do not wrap (R42). -/
theorem toNat_add_of_aligned {a : Word} (ha : a.toNat % 4 = 0) :
    (a + 1).toNat = a.toNat + 1 ∧ (a + 2).toNat = a.toNat + 2 ∧ (a + 3).toNat = a.toNat + 3 := by
  bv_omega

/-- A placed word fills its four bytes in the byte order and leaves every other byte as it was (R41, R43). -/
theorem readByte_placeWord (o : ByteOrder) (m : List Host.Cell) {a : Word} (w : Word) (ha : a.toNat % 4 = 0) (b : Nat) :
    readByte (placeWord o m a w) b =
      if a.toNat ≤ b ∧ b < a.toNat + 4 then some (byteOfWord o w (b - a.toNat)) else readByte m b := by
  obtain ⟨h1, h2, h3⟩ := toNat_add_of_aligned ha
  simp only [placeWord, readByte_writeByte, h1, h2, h3]
  by_cases hb : a.toNat ≤ b ∧ b < a.toNat + 4
  · obtain ⟨k, rfl⟩ := Nat.exists_eq_add_of_le hb.1
    have hk : k < 4 := by omega
    interval_cases k <;> simp
  · rw [if_neg hb, if_neg (by omega), if_neg (by omega), if_neg (by omega), if_neg (by omega)]

/-- Byte `k` of a placed word. -/
theorem readByte_placeWord_add (o : ByteOrder) (m : List Host.Cell) {a : Word} (w : Word) (ha : a.toNat % 4 = 0) {k : Nat}
    (hk : k < 4) : readByte (placeWord o m a w) (a.toNat + k) = some (byteOfWord o w k) := by
  rw [readByte_placeWord o m w ha, if_pos (by omega), Nat.add_sub_cancel_left]

/-- The four bytes of a word, put together in the order that took them apart, are the word (R43). -/
theorem wordOfBytes_byteOfWord (o : ByteOrder) (w : Word) :
    wordOfBytes o (byteOfWord o w 0) (byteOfWord o w 1) (byteOfWord o w 2) (byteOfWord o w 3) = w := by
  have join (i n : Nat) : w.extractLsb' (i + 8) n ++ w.extractLsb' i 8 = w.extractLsb' i (n + 8) :=
    BitVec.extractLsb'_append_extractLsb'_eq_extractLsb' rfl
  have hw : w.extractLsb' 24 8 ++ w.extractLsb' 16 8 ++ w.extractLsb' 8 8 ++ w.extractLsb' 0 8 = w := by
    rw [join 16 8, join 8 16, join 0 24, BitVec.extractLsb'_eq_self]
  cases o with
  | little => exact hw
  | big => exact hw

/-- A fetch whose four bytes are loaded is the word they make (R41, R43). -/
theorem fetchWord_of_readByte {o : ByteOrder} {m : List Host.Cell} {a : Word} {b0 b1 b2 b3 : Byte}
    (h0 : readByte m a.toNat = some b0) (h1 : readByte m (a + 1).toNat = some b1) (h2 : readByte m (a + 2).toNat = some b2)
    (h3 : readByte m (a + 3).toNat = some b3) : fetchWord o m a = some (wordOfBytes o b0 b1 b2 b3) := by
  simp only [fetchWord, h0, h1, h2, h3]

/-- A word placed at an aligned address is fetched from there (R41, R43). -/
theorem fetchWord_placeWord (o : ByteOrder) (m : List Host.Cell) {a : Word} (w : Word) (ha : a.toNat % 4 = 0) :
    fetchWord o (placeWord o m a w) a = some w := by
  obtain ⟨h1, h2, h3⟩ := toNat_add_of_aligned ha
  have hbyte {k : Nat} (hk : k < 4) := readByte_placeWord_add o m w ha hk
  rw [fetchWord_of_readByte (hbyte (k := 0) (by decide)) (h1 ▸ hbyte (by decide)) (h2 ▸ hbyte (by decide))
    (h3 ▸ hbyte (by decide)), wordOfBytes_byteOfWord]

/-- Settles O13: the placed word's own bytes make it up again, and the others were never written. -/
theorem placedWordIsFetchedBackInEitherByteOrder : Obligations.PlacedWordIsFetchedBackInEitherByteOrder := by
  refine fun o m a w ha => ⟨fetchWord_placeWord o m w ha, fun b hb => ?_, wf_placeWord o m a w⟩
  rw [readByte_placeWord o m w ha, if_neg (by omega)]

/-- No effect of an instruction writes the program text (R40). -/
theorem effect_text {c : Config} {s t : State} {ls : List Loc} (h : Effect c s ls t) : t.text = s.text := by
  cases h with
  | gpr rd v | link rd v => exact writeQword_text c s rd v
  | unchanged | hi | lo | hiLo | sa | jump => rfl

/-- A step that goes on fetched a word, decoded it and completed its instruction on the advanced state (R166). -/
theorem handle_of_step_next {s t : State} (h : step s = .next t) :
    ∃ w i, fetchAtPc referenceConfig s = .ok w ∧ decodeWith referenceConfig.encoding w = .ok i ∧
      handle referenceConfig i s.advance = .ok t := by
  rcases step_cases s with ⟨r, -, e⟩ | ⟨w, hw, ⟨u, hu, e⟩ | ⟨f, -, e⟩⟩ <;> rw [e] at h
  case inl => cases h
  case inr.inr => cases h
  case inr.inl =>
    obtain rfl : u = t := Host.Outcome.next.inj h
    rcases dispatchWord_cases referenceConfig w s.advance with ⟨i, hi, ei⟩ | ⟨r, -, er⟩
    · exact ⟨w, i, hw, hi, ei ▸ hu⟩
    · cases er.symm.trans hu

/-- The program text after a step that goes on is the one before it (R49). -/
theorem step_text {s t : State} (h : step s = .next t) : t.text = s.text := by
  obtain ⟨-, i, -, -, hi⟩ := handle_of_step_next h
  exact (effect_text (handle_hasEffect _ i _ t hi)).trans (advance_text s)

/-- Settles O49: bytes and canonical form are read off the text alone. -/
theorem stepKeepsTheProgramText : Obligations.StepKeepsTheProgramText := by
  intro s t h
  have htext := step_text h
  refine ⟨htext, fun a => ?_, fun hwf => ?_⟩
  · rw [State.byteAt, State.byteAt, htext]
  · rwa [htext]

end Sys2Proof.Machine
end

section
/-! PROOFS, spec/30_encoding.md: the six fields and their word (R51 to R53), FUNCT_MAP as a table (R56), the decoder's three
answers (R54, R55, R62), the fields each operation uses (R57) and the round trip with the encoder (R65). -/

namespace Sys2Proof

/-! ## Fields and words -/

@[simp] theorem val_regOfBits (b : BitVec 5) : (regOfBits b).val = b.toNat := rfl
@[simp] theorem toNat_bitsOfReg (i : RegIdx) : (bitsOfReg i).toNat = i.val := rfl

/-- A field moved to its place loses no bit while the place lies in the word (R51). -/
theorem toNat_setWidth_shiftLeft {n : Nat} (b : BitVec n) (k : Nat) (h : n + k ≤ 32) :
    ((b.setWidth 32 : Word) <<< k).toNat = b.toNat <<< k := by
  have hb : b.toNat * 2 ^ k < 2 ^ 32 :=
    calc b.toNat * 2 ^ k < 2 ^ n * 2 ^ k := Nat.mul_lt_mul_of_pos_right b.isLt (Nat.two_pow_pos k)
      _ = 2 ^ (n + k) := (Nat.pow_add 2 n k).symm
      _ ≤ 2 ^ 32 := Nat.pow_le_pow_right (by decide) h
  rw [BitVec.toNat_shiftLeft, BitVec.toNat_setWidth_of_le (by omega), Nat.shiftLeft_eq, Nat.mod_eq_of_lt hb]

/-- The word of six fields is their sum, each at its place: no two places overlap (R51, R53). -/
theorem toNat_encodeFields (f : Fields) :
    (encodeFields f).toNat = f.opcode.toNat * 2 ^ 26 + (f.rs.val * 2 ^ 21 + (f.rt.val * 2 ^ 16 + (f.rd.val * 2 ^ 11 +
      (f.sa.toNat * 2 ^ 6 + f.funct.toNat)))) := by
  have join {k b : Nat} (a : Nat) (h : b < 2 ^ k) : a <<< k ||| b = a * 2 ^ k + b := by
    rw [← Nat.shiftLeft_add_eq_or_of_lt h, Nat.shiftLeft_eq]
  have hrs := f.rs.isLt
  have hrt := f.rt.isLt
  have hrd := f.rd.isLt
  have hsa := f.sa.isLt
  have hfunct := f.funct.isLt
  simp only [encodeFields, BitVec.toNat_or]
  rw [toNat_setWidth_shiftLeft _ 26 (by decide), toNat_setWidth_shiftLeft _ 21 (by decide),
    toNat_setWidth_shiftLeft _ 16 (by decide), toNat_setWidth_shiftLeft _ 11 (by decide),
    toNat_setWidth_shiftLeft _ 6 (by decide), BitVec.toNat_setWidth_of_le (by decide)]
  simp only [toNat_bitsOfReg, Nat.or_assoc]
  rw [join f.sa.toNat (by omega), join f.rd.val (by omega), join f.rt.val (by omega), join f.rs.val (by omega),
    join f.opcode.toNat (by omega)]

/-- Every field tuple is read back from its word (R53). -/
@[simp] theorem decodeFields_encodeFields (f : Fields) : decodeFields (encodeFields f) = f := by
  have hw := toNat_encodeFields f
  obtain ⟨opcode, rs, rt, rd, sa, funct⟩ := f
  simp only [decodeFields, Fields.mk.injEq, BitVec.toNat_eq, Fin.ext_iff, val_regOfBits,
    BitVec.extractLsb'_toNat, Nat.shiftRight_eq_div_pow, hw]
  omega

/-- Every word is the word of its fields: no bit is unread (R52, R53). -/
@[simp] theorem encodeFields_decodeFields (w : Word) : encodeFields (decodeFields w) = w := by
  apply BitVec.eq_of_toNat_eq
  simp only [toNat_encodeFields, decodeFields, val_regOfBits, BitVec.extractLsb'_toNat, Nat.shiftRight_eq_div_pow]
  omega

/-- Settles O4: each field by shift and mask, and the word put together again. -/
theorem decoderExtractsTheSixFields : Obligations.DecoderExtractsTheSixFields := by
  intro w
  have hfield (i n : Nat) : (w.extractLsb' i n).toNat = (w.toNat >>> i) &&& (2 ^ n - 1) := by
    rw [BitVec.extractLsb'_toNat, Nat.and_two_pow_sub_one_eq_mod]
  exact ⟨hfield 26 6, hfield 21 5, hfield 16 5, hfield 11 5, hfield 6 5, hfield 0 6, encodeFields_decodeFields w⟩

/-- Settles O5: `encodeFields` and `decodeFields` are inverse to each other. -/
theorem everyFieldTupleHasExactlyOneWord : Obligations.EveryFieldTupleHasExactlyOneWord := by
  refine fun f => ⟨decodeFields_encodeFields f, fun w h => ?_⟩
  rw [← h, encodeFields_decodeFields]

/-! ## FUNCT_MAP as a table -/

/-- What a funct value selects stands in its row (R55). -/
theorem mem_of_opOfFunct_eq_some {m : FunctMap} {k : Code6} {op : Op} (h : opOfFunct m k = some op) : (k, op) ∈ m := by
  induction m with
  | nil => cases h
  | cons row rows ih =>
    rw [opOfFunct] at h
    split at h
    case isTrue hk =>
      cases h
      exact hk ▸ List.mem_cons_self
    case isFalse => exact List.mem_cons_of_mem _ (ih h)

/-- Where no funct value stands in two rows, a row's value selects its operation (R55). -/
theorem opOfFunct_eq_some_of_mem {m : FunctMap} (hm : (m.map (·.1)).Nodup) {k : Code6} {op : Op} (h : (k, op) ∈ m) :
    opOfFunct m k = some op := by
  induction m with
  | nil => cases h
  | cons row rows ih =>
    obtain ⟨k', op'⟩ := row
    obtain ⟨hnotMem, hrows⟩ := List.nodup_cons.mp hm
    rw [opOfFunct]
    rcases List.mem_cons.mp h with e | hmem
    · cases e
      exact if_pos rfl
    · have hne : k' ≠ k := by
        rintro rfl
        exact hnotMem (List.mem_map_of_mem (f := (·.1)) hmem)
      rw [if_neg hne, ih hrows hmem]

/-- An operation of the table stands in a row with its funct value (R65). -/
theorem functOfOp_mem {m : FunctMap} {op : Op} (h : op ∈ m.map (·.2)) : (functOfOp m op, op) ∈ m := by
  induction m with
  | nil => cases h
  | cons row rows ih =>
    rw [functOfOp]
    split
    case isTrue ho => exact ho ▸ List.mem_cons_self
    case isFalse ho =>
      rcases List.mem_cons.mp h with e | hmem
      · exact absurd e.symm ho
      · exact List.mem_cons_of_mem _ (ih hmem)

/-- The list of operations is complete (R56). -/
theorem Op.mem_all (op : Op) : op ∈ Op.all := by
  cases op <;> decide

/-- In a well-formed table every operation is selected by its own funct value (R55, R56). -/
theorem opOfFunct_functOfOp {m : FunctMap} (hm : m.wellFormed = true) (op : Op) :
    opOfFunct m (functOfOp m op) = some op := by
  simp only [FunctMap.wellFormed, FunctMap.functsDistinct, FunctMap.complete, Bool.and_eq_true, decide_eq_true_eq,
    List.all_eq_true, List.contains_iff_mem] at hm
  obtain ⟨⟨hfuncts, -⟩, hcomplete⟩ := hm
  exact opOfFunct_eq_some_of_mem hfuncts (functOfOp_mem (hcomplete op op.mem_all))

/-- The standard table leaves twelve funct values unassigned (R59). -/
theorem opOfFunct_standardFunctMap_eq_none_iff (k : Code6) : opOfFunct standardFunctMap k = none ↔
    k ∈ ([0x01, 0x05, 0x0E, 0x15, 0x1C, 0x1D, 0x1E, 0x1F, 0x35, 0x37, 0x39, 0x3D] : List Code6) := by
  revert k
  decide

/-! ## The decoder's three answers -/

section
variable {e : Encoding} {w : Word}

/-- Level 1 rejects a word whose opcode is not SPECIAL (R54, R60). -/
theorem decodeWith_of_opcode_ne (h : (decodeFields w).opcode ≠ 0) :
    decodeWith e w = .error (.unimplementedOpcode (decodeFields w).opcode) :=
  if_neg h

/-- Level 2 rejects an unassigned funct (R55, R59). -/
theorem decodeWith_of_funct_unassigned (h : (decodeFields w).opcode = 0)
    (hf : opOfFunct e.functMap (decodeFields w).funct = none) :
    decodeWith e w = .error (.unimplementedFunction (decodeFields w).funct) := by
  rw [decodeWith, if_pos (show _ = specialOpcode from h), hf]

/-- Level 2 selects the operation of an assigned funct (R55). -/
theorem decodeWith_of_funct_assigned {op : Op} (h : (decodeFields w).opcode = 0)
    (hf : opOfFunct e.functMap (decodeFields w).funct = some op) :
    decodeWith e w = .ok (instrOfFields e (decodeFields w) op) := by
  rw [decodeWith, if_pos (show _ = specialOpcode from h), hf]

/-- A decoded word has the SPECIAL opcode and an assigned funct, and the instruction has its fields (R54, R55). -/
theorem decodeWith_eq_ok_iff {i : Instr} : decodeWith e w = .ok i ↔ (decodeFields w).opcode = 0 ∧
    ∃ op, opOfFunct e.functMap (decodeFields w).funct = some op ∧ instrOfFields e (decodeFields w) op = i := by
  constructor
  · intro h
    by_cases hop : (decodeFields w).opcode = 0
    · refine ⟨hop, ?_⟩
      cases hf : opOfFunct e.functMap (decodeFields w).funct with
      | none => cases (decodeWith_of_funct_unassigned hop hf).symm.trans h
      | some op => exact ⟨op, rfl, Except.ok.inj ((decodeWith_of_funct_assigned hop hf).symm.trans h)⟩
    · cases (decodeWith_of_opcode_ne hop).symm.trans h
  · rintro ⟨hop, op, hf, rfl⟩
    exact decodeWith_of_funct_assigned hop hf

end

/-- The instruction made of an operation's fields is of that operation. -/
@[simp] theorem instrOfFields_op (e : Encoding) (f : Fields) (op : Op) : (instrOfFields e f op).op = op := by
  cases op <;> rfl

/-! ## Encode, then decode -/

/-- The register put into a field is read from that field, whatever opcode and funct stand beside it (D4). -/
theorem fieldReg_withFieldReg (g : GprField) (r : RegIdx) (opcode funct : Code6) :
    fieldReg { withFieldReg g r with opcode := opcode, funct := funct } g = r := by
  cases g <;> rfl

/-- The operands the encoder puts into an instruction's fields are those the decoder takes from them (R57, R65). -/
theorem instrOfFields_operandFields (e : Encoding) (i : Instr) (opcode funct : Code6) :
    instrOfFields e { operandFields e i with opcode := opcode, funct := funct } i.op = i := by
  cases i
  case mfhi rd => exact congrArg Instr.mfhi (fieldReg_withFieldReg _ rd opcode funct)
  case mflo rd => exact congrArg Instr.mflo (fieldReg_withFieldReg _ rd opcode funct)
  case mfsa rd => exact congrArg Instr.mfsa (fieldReg_withFieldReg _ rd opcode funct)
  case mthi rs => exact congrArg Instr.mthi (fieldReg_withFieldReg _ rs opcode funct)
  case mtlo rs => exact congrArg Instr.mtlo (fieldReg_withFieldReg _ rs opcode funct)
  case mtsa rs => exact congrArg Instr.mtsa (fieldReg_withFieldReg _ rs opcode funct)
  all_goals rfl

/-- The fields of an encoded instruction (R53, R65). -/
theorem decodeFields_encodeWith (e : Encoding) (i : Instr) : decodeFields (encodeWith e i) =
    { operandFields e i with opcode := specialOpcode, funct := functOfOp e.functMap i.op } :=
  decodeFields_encodeFields _

/-- Under a well-formed table an encoded instruction decodes to itself (R56, R65). -/
theorem decodeWith_encodeWith {e : Encoding} (he : e.functMap.wellFormed = true) (i : Instr) :
    decodeWith e (encodeWith e i) = .ok i := by
  refine decodeWith_eq_ok_iff.mpr ?_
  rw [decodeFields_encodeWith]
  exact ⟨rfl, i.op, opOfFunct_functOfOp he i.op, instrOfFields_operandFields e i _ _⟩

theorem standardFunctMap_wellFormed : standardFunctMap.wellFormed = true := by decide

/-- Settles O6: the round trip for any well-formed table, and the standard table is well-formed. -/
theorem decodeOfEncodeIsTheInstruction : Obligations.DecodeOfEncodeIsTheInstruction :=
  ⟨fun _ he i => decodeWith_encodeWith he i, decodeWith_encodeWith standardFunctMap_wellFormed⟩

/-! ## The fields an operation uses -/

/-- The fields that a form uses by the table of R57, every other field zero. -/
def usedFields (m : Form) (f : Fields) : Fields where
  opcode := f.opcode
  rs := if m.usesRs then f.rs else 0
  rt := if m.usesRt then f.rt else 0
  rd := if m.usesRd then f.rd else 0
  sa := if m.usesSa then f.sa else 0
  funct := f.funct

/-- An operation takes its operands from the fields its form uses, and from no other (R57, D4, D16). -/
theorem instrOfFields_usedFields (f : Fields) (op : Op) :
    instrOfFields standardEncoding (usedFields op.form f) op = instrOfFields standardEncoding f op := by
  cases op <;> rfl

/-- Fields that agree where a form uses them have the same used fields. -/
theorem usedFields_congr {m : Form} {f g : Fields} (hopcode : g.opcode = f.opcode) (hfunct : g.funct = f.funct)
    (hrs : m.usesRs = true → g.rs = f.rs) (hrt : m.usesRt = true → g.rt = f.rt) (hrd : m.usesRd = true → g.rd = f.rd)
    (hsa : m.usesSa = true → g.sa = f.sa) : usedFields m g = usedFields m f := by
  rw [usedFields, usedFields, hopcode, hfunct, ite_congr rfl hrs fun _ => rfl, ite_congr rfl hrt fun _ => rfl,
    ite_congr rfl hrd fun _ => rfl, ite_congr rfl hsa fun _ => rfl]

/-- Settles O7: the funct selects the same operation, which reads the same used fields. -/
theorem decodeDependsOnNamedFieldsAlone : Obligations.DecodeDependsOnNamedFieldsAlone := by
  intro w w' i h hopcode hfunct hrs hrt hrd hsa
  obtain ⟨hspecial, op, hop, rfl⟩ := decodeWith_eq_ok_iff.mp h
  rw [instrOfFields_op] at hrs hrt hrd hsa
  refine decodeWith_eq_ok_iff.mpr ⟨hopcode.trans hspecial, op, hfunct ▸ hop, ?_⟩
  rw [← instrOfFields_usedFields, usedFields_congr hopcode hfunct hrs hrt hrd hsa, instrOfFields_usedFields]

/-- Settles O8: by opcode, then by whether the standard table assigns the funct. -/
theorem everyWordHasOneDisposition : Obligations.EveryWordHasOneDisposition := by
  intro w
  by_cases hopcode : (decodeFields w).opcode = 0
  · refine .inr ?_
    cases hfunct : opOfFunct standardFunctMap (decodeFields w).funct with
    | none =>
      exact .inl ⟨hopcode, (opOfFunct_standardFunctMap_eq_none_iff _).mp hfunct,
        decodeWith_of_funct_unassigned hopcode hfunct⟩
    | some op =>
      refine .inr ⟨hopcode, fun hmem => ?_, _, decodeWith_of_funct_assigned hopcode hfunct, ?_⟩
      · cases hfunct.symm.trans ((opOfFunct_standardFunctMap_eq_none_iff _).mpr hmem)
      · rw [instrOfFields_op]
        exact mem_of_opOfFunct_eq_some hfunct
  · exact .inl ⟨hopcode, decodeWith_of_opcode_ne hopcode⟩

/-- Settles O9: each literal word is run through the decoder. -/
theorem writtenOutWordsDecodeToTheirInstructions : Obligations.WrittenOutWordsDecodeToTheirInstructions := by
  refine ⟨?_, ?_, ?_, ?_, ?_, ?_, ?_, ?_, ?_, ?_, ?_, ?_⟩ <;> decide

end Sys2Proof

namespace Sys2Proof.Machine

/-! ## Dispatch -/

/-- A decoded word runs its instruction's handler (R55). -/
theorem dispatchWord_of_decodeWith_ok {c : Config} {w : Word} {i : Instr} (h : decodeWith c.encoding w = .ok i) (s : State) :
    dispatchWord c w s = handle c i s := by
  simp only [dispatchWord, h]

/-- A rejected word faults with the fault of its reject and changes nothing (R32, R148, R149). -/
theorem execute_of_decodeWith_error {c : Config} {w : Word} {r : Reject} (h : decodeWith c.encoding w = .error r)
    (s : State) : execute c w s = (s, .fault (faultOfReject r)) := by
  simp only [execute, dispatchWord, h, raiseFault]

/-- Settles O10: the three answers of the decoder, dispatched. -/
theorem dispatchSelectsByOpcodeThenFunct : Obligations.DispatchSelectsByOpcodeThenFunct :=
  fun _ _ s => ⟨fun hopcode => execute_of_decodeWith_error (decodeWith_of_opcode_ne hopcode) s,
    fun hopcode hfunct => execute_of_decodeWith_error (decodeWith_of_funct_unassigned hopcode hfunct) s,
    fun _ hopcode hfunct => dispatchWord_of_decodeWith_ok (decodeWith_of_funct_assigned hopcode hfunct) s⟩

/-- A register write changes nothing exactly when the register holds the value already. -/
theorem setReg_eq_self_iff (s : State) (i : RegIdx) (v : Qword) : s.setReg i v = s ↔ v = s.reg i := by
  constructor
  · intro h
    rw [← setReg_reg_same s i v, h]
  · rintro rfl
    exact setReg_self s i

/-- SLL by 0 fills `rd` with the low word of `rt`, sign-extended (R71). -/
theorem handleSll_reference_zero (rd rt : RegIdx) (s : State) :
    handleSll referenceConfig rd rt 0 s = .ok (s.setReg rd (sextWord (s.readWord rt))) := by
  rw [handleSll, wordShift_reference, shiftLeft, show (0 : ShAmt).toNat = 0 from rfl, BitVec.shiftLeft_zero]

/-- Settles O52: SLL by 0 writes back the sign-extended low word, which is no change exactly on a word-canonical register. -/
theorem allZeroWordIsNoOpExactlyWhenRegisterZeroIsWordCanonical :
    Obligations.AllZeroWordIsNoOpExactlyWhenRegisterZeroIsWordCanonical := by
  refine ⟨by decide, fun s => ?_⟩
  calc exec (.sll 0 0 0) s = .next s
    _ ↔ handleSll referenceConfig 0 0 0 s = .ok s := exec_next_iff _ s s
    _ ↔ s.setReg 0 (sextWord (s.readWord 0)) = s := by rw [handleSll_reference_zero, Except.ok.injEq]
    _ ↔ WordCanonical (s.reg 0) := setReg_eq_self_iff s 0 _

end Sys2Proof.Machine
end

section
/-! PROOFS, spec/40_shifts.md: the three shift functions as arithmetic (R5), the amount of a variable shift (R74, R78), what each of
the fifteen shifts answers (R71 to R87), and what a sign-extended result in `rd` reads as (R70, R77). -/

namespace Sys2Proof.Machine

/-! ## The shift functions and the variable amounts -/

theorem toNat_shiftLeft {w : Nat} (b : BitVec w) (n : Nat) : (shiftLeft b n).toNat = b.toNat * 2 ^ n % 2 ^ w := by
  rw [shiftLeft, BitVec.toNat_shiftLeft, Nat.shiftLeft_eq]

theorem toNat_shiftRight {w : Nat} (b : BitVec w) (n : Nat) : (shiftRight b n).toNat = b.toNat / 2 ^ n := by
  rw [shiftRight, BitVec.toNat_ushiftRight, Nat.shiftRight_eq_div_pow]

/-- An arithmetic shift divides the signed value by a power of two, rounding down. -/
theorem toInt_shiftArith {w : Nat} (b : BitVec w) (n : Nat) : (shiftArith b n).toInt = b.toInt / 2 ^ n := by
  rw [shiftArith, BitVec.toInt_sshiftRight, Int.shiftRight_eq_div_pow, Nat.cast_pow, Nat.cast_ofNat]

theorem shiftAmount5_eq_mod (s : State) (rs : RegIdx) : s.shiftAmount5 rs = (s.reg rs).toNat % 32 :=
  BitVec.toNat_setWidth 5 (s.reg rs)

theorem shiftAmount6_eq_mod (s : State) (rs : RegIdx) : s.shiftAmount6 rs = (s.reg rs).toNat % 64 :=
  BitVec.toNat_setWidth 6 (s.reg rs)

/-! ## What each shift answers: its function and its amount put into the contract of its width -/

/-- An instruction handled by the word contract completes with the shifted low word, sign-extended, in `rd` (R70). -/
theorem exec_of_wordShift {i : Instr} {s : State} {f : Word → Nat → Word} {rd rt : RegIdx} {m : Nat} (n : Nat)
    (hi : handle referenceConfig i s = wordShift referenceConfig f rd rt m s) (hm : m = n) :
    exec i s = .next (s.setReg rd (sextWord (f (s.readWord rt) n))) :=
  (exec_next_iff i s _).mpr (hi.trans (hm ▸ wordShift_reference f rd rt m s))

/-- An instruction handled by the doubleword contract completes with the shifted low dword, sign-extended, in `rd` (R77). -/
theorem exec_of_dwordShift {i : Instr} {s : State} {f : Dword → Nat → Dword} {rd rt : RegIdx} {m : Nat} (n : Nat)
    (hi : handle referenceConfig i s = dwordShift referenceConfig f rd rt m s) (hm : m = n) :
    exec i s = .next (s.setReg rd (sextDword (f (s.readDword rt) n))) :=
  (exec_next_iff i s _).mpr (hi.trans (hm ▸ dwordShift_reference f rd rt m s))

section
variable (s : State) (rd rt rs : RegIdx) (sa : ShAmt)

theorem exec_sll : exec (.sll rd rt sa) s = .next (s.setReg rd (sextWord (shiftLeft (s.readWord rt) sa.toNat))) :=
  exec_of_wordShift _ rfl rfl

theorem exec_srl : exec (.srl rd rt sa) s = .next (s.setReg rd (sextWord (shiftRight (s.readWord rt) sa.toNat))) :=
  exec_of_wordShift _ rfl rfl

theorem exec_sra : exec (.sra rd rt sa) s = .next (s.setReg rd (sextWord (shiftArith (s.readWord rt) sa.toNat))) :=
  exec_of_wordShift _ rfl rfl

theorem exec_sllv : exec (.sllv rd rt rs) s =
    .next (s.setReg rd (sextWord (shiftLeft (s.readWord rt) ((s.reg rs).toNat % 32)))) :=
  exec_of_wordShift _ rfl (shiftAmount5_eq_mod s rs)

theorem exec_srlv : exec (.srlv rd rt rs) s =
    .next (s.setReg rd (sextWord (shiftRight (s.readWord rt) ((s.reg rs).toNat % 32)))) :=
  exec_of_wordShift _ rfl (shiftAmount5_eq_mod s rs)

theorem exec_srav : exec (.srav rd rt rs) s =
    .next (s.setReg rd (sextWord (shiftArith (s.readWord rt) ((s.reg rs).toNat % 32)))) :=
  exec_of_wordShift _ rfl (shiftAmount5_eq_mod s rs)

theorem exec_dsllv : exec (.dsllv rd rt rs) s =
    .next (s.setReg rd (sextDword (shiftLeft (s.readDword rt) ((s.reg rs).toNat % 64)))) :=
  exec_of_dwordShift _ rfl (shiftAmount6_eq_mod s rs)

theorem exec_dsrlv : exec (.dsrlv rd rt rs) s =
    .next (s.setReg rd (sextDword (shiftRight (s.readDword rt) ((s.reg rs).toNat % 64)))) :=
  exec_of_dwordShift _ rfl (shiftAmount6_eq_mod s rs)

theorem exec_dsrav : exec (.dsrav rd rt rs) s =
    .next (s.setReg rd (sextDword (shiftArith (s.readDword rt) ((s.reg rs).toNat % 64)))) :=
  exec_of_dwordShift _ rfl (shiftAmount6_eq_mod s rs)

theorem exec_dsll : exec (.dsll rd rt sa) s = .next (s.setReg rd (sextDword (shiftLeft (s.readDword rt) sa.toNat))) :=
  exec_of_dwordShift _ rfl rfl

theorem exec_dsrl : exec (.dsrl rd rt sa) s = .next (s.setReg rd (sextDword (shiftRight (s.readDword rt) sa.toNat))) :=
  exec_of_dwordShift _ rfl rfl

theorem exec_dsra : exec (.dsra rd rt sa) s = .next (s.setReg rd (sextDword (shiftArith (s.readDword rt) sa.toNat))) :=
  exec_of_dwordShift _ rfl rfl

theorem exec_dsll32 :
    exec (.dsll32 rd rt sa) s = .next (s.setReg rd (sextDword (shiftLeft (s.readDword rt) (sa.toNat + 32)))) :=
  exec_of_dwordShift _ rfl rfl

theorem exec_dsrl32 :
    exec (.dsrl32 rd rt sa) s = .next (s.setReg rd (sextDword (shiftRight (s.readDword rt) (sa.toNat + 32)))) :=
  exec_of_dwordShift _ rfl rfl

theorem exec_dsra32 :
    exec (.dsra32 rd rt sa) s = .next (s.setReg rd (sextDword (shiftArith (s.readDword rt) (sa.toNat + 32)))) :=
  exec_of_dwordShift _ rfl rfl

end

/-! ## What a sign-extended result in `rd` reads as -/

theorem toInt_sextWord (v : Word) : (sextWord v).toInt = v.toInt := BitVec.toInt_signExtend_of_le (by decide)

theorem wordCanonical_sextWord (v : Word) : WordCanonical (sextWord v) := congrArg sextWord (lowWord_sextWord v)

section
variable {o : Host.Outcome State Fault Refusal} {s : State} {rd : RegIdx}

/-- A word result of value `k` in `rd`: the low word is `k`, its top bit fills the rest, and nothing else changes (R70). -/
theorem next_sextWord_toNat {v : Word} {k : Nat} (ho : o = .next (s.setReg rd (sextWord v))) (hv : v.toNat = k) :
    ∃ t, o = .next t ∧ (t.readWord rd).toNat = k ∧ WordCanonical (t.reg rd) ∧ SameExcept [.gpr rd] s t := by
  obtain ⟨hword, -, -, hframe⟩ := reads_of_setReg s rd (sextWord v)
  refine ⟨_, ho, ?_, ?_, hframe⟩
  · rw [hword, lowWord_sextWord, hv]
  · rw [setReg_reg_same]
    exact wordCanonical_sextWord v

/-- A word result of signed value `k` in `rd`: the whole register is `k`, and nothing else changes (R70). -/
theorem next_sextWord_toInt {v : Word} {k : Int} (ho : o = .next (s.setReg rd (sextWord v))) (hv : v.toInt = k) :
    ∃ t, o = .next t ∧ (t.reg rd).toInt = k ∧ SameExcept [.gpr rd] s t := by
  obtain ⟨-, -, hreg, hframe⟩ := reads_of_setReg s rd (sextWord v)
  exact ⟨_, ho, (congrArg BitVec.toInt hreg).trans ((toInt_sextWord v).trans hv), hframe⟩

/-- A dword result of value `k` in `rd`: the low dword is `k`, its top bit fills the rest, and nothing else changes (R77). -/
theorem next_sextDword_toNat {d : Dword} {k : Nat} (ho : o = .next (s.setReg rd (sextDword d))) (hd : d.toNat = k) :
    ∃ t, o = .next t ∧ (t.readDword rd).toNat = k ∧ DwordCanonical (t.reg rd) ∧ SameExcept [.gpr rd] s t := by
  obtain ⟨-, hdword, -, hframe⟩ := reads_of_setReg s rd (sextDword d)
  refine ⟨_, ho, ?_, ?_, hframe⟩
  · rw [hdword, lowDword_sextDword, hd]
  · rw [setReg_reg_same]
    exact dwordCanonical_sextDword d

/-- A dword result of signed value `k` in `rd`: the whole register is `k`, and nothing else changes (R77). -/
theorem next_sextDword_toInt {d : Dword} {k : Int} (ho : o = .next (s.setReg rd (sextDword d))) (hd : d.toInt = k) :
    ∃ t, o = .next t ∧ (t.reg rd).toInt = k ∧ SameExcept [.gpr rd] s t := by
  obtain ⟨-, -, hreg, hframe⟩ := reads_of_setReg s rd (sextDword d)
  exact ⟨_, ho, (congrArg BitVec.toInt hreg).trans ((toInt_sextDword d).trans hd), hframe⟩

end

/-! ## The statements -/

/-- Settles O15: each instruction's answer, with the arithmetic value of its shift. -/
theorem wordShiftsShiftTheLowWordAndSignExtend : Obligations.WordShiftsShiftTheLowWordAndSignExtend :=
  fun s rd rt rs sa =>
    ⟨next_sextWord_toNat (exec_sll s rd rt sa) (toNat_shiftLeft _ _),
      next_sextWord_toNat (exec_srl s rd rt sa) (toNat_shiftRight _ _),
      next_sextWord_toInt (exec_sra s rd rt sa) (toInt_shiftArith _ _),
      next_sextWord_toNat (exec_sllv s rd rt rs) (toNat_shiftLeft _ _),
      next_sextWord_toNat (exec_srlv s rd rt rs) (toNat_shiftRight _ _),
      next_sextWord_toInt (exec_srav s rd rt rs) (toInt_shiftArith _ _)⟩

/-- Settles O16: as O15, at 64 bits. -/
theorem dwordShiftsShiftTheLowDwordAndSignExtend : Obligations.DwordShiftsShiftTheLowDwordAndSignExtend :=
  fun s rd rt rs sa =>
    ⟨next_sextDword_toNat (exec_dsllv s rd rt rs) (toNat_shiftLeft _ _),
      next_sextDword_toNat (exec_dsrlv s rd rt rs) (toNat_shiftRight _ _),
      next_sextDword_toInt (exec_dsrav s rd rt rs) (toInt_shiftArith _ _),
      next_sextDword_toNat (exec_dsll s rd rt sa) (toNat_shiftLeft _ _),
      next_sextDword_toNat (exec_dsrl s rd rt sa) (toNat_shiftRight _ _),
      next_sextDword_toInt (exec_dsra s rd rt sa) (toInt_shiftArith _ _),
      next_sextDword_toNat (exec_dsll32 s rd rt sa) (toNat_shiftLeft _ _),
      next_sextDword_toNat (exec_dsrl32 s rd rt sa) (toNat_shiftRight _ _),
      next_sextDword_toInt (exec_dsra32 s rd rt sa) (toInt_shiftArith _ _)⟩

/-- Settles O17: where the amounts are equal, the variable and the fixed form give the same answer. -/
theorem variableShiftsAgreeWithFixedShifts : Obligations.VariableShiftsAgreeWithFixedShifts := by
  refine fun s rd rt rs k => ⟨fun hk => ?_, fun hk => ?_, fun hk => ?_⟩
  · rw [exec_sllv, exec_srlv, exec_srav, hk]
    exact ⟨(exec_sll s rd rt k).symm, (exec_srl s rd rt k).symm, (exec_sra s rd rt k).symm⟩
  · rw [exec_dsllv, exec_dsrlv, exec_dsrav, hk]
    exact ⟨(exec_dsll s rd rt k).symm, (exec_dsrl s rd rt k).symm, (exec_dsra s rd rt k).symm⟩
  · rw [exec_dsllv, exec_dsrlv, exec_dsrav, hk]
    exact ⟨(exec_dsll32 s rd rt k).symm, (exec_dsrl32 s rd rt k).symm, (exec_dsra32 s rd rt k).symm⟩

end Sys2Proof.Machine
end

section
/-! PROOFS, spec/41_jumps.md: the state each jump completes in (R90, R91), the target as a number (R93) and the link as a number (D10). -/

namespace Sys2Proof.Machine

/-- The word view of a register is the register mod 2^32 (R13); as a jump target, any 32-bit value (R93). -/
theorem toNat_readWord (s : State) (i : RegIdx) : (s.readWord i).toNat = (s.reg i).toNat % 2 ^ 32 :=
  BitVec.toNat_setWidth 32 (s.reg i)

/-- The link wraps mod 2^32 (D10). -/
theorem toNat_pc_add_eight (s : State) : (s.pc + 8).toNat = (s.pc.toNat + 8) % 2 ^ 32 := BitVec.toNat_add s.pc 8

/-- JR completes with the low word of `rs` in npc (R90). -/
theorem exec_jr (s : State) (rs : RegIdx) : exec (.jr rs) s = .next (s.setNpc (s.readWord rs)) := rfl

/-- JALR completes with the sign-extended link in `rd`, and in npc the low word that `rs` held before (R91). -/
theorem exec_jalr (s : State) (rd rs : RegIdx) :
    exec (.jalr rd rs) s = .next ((s.setReg rd (sextWord (s.pc + 8))).setNpc (s.readWord rs)) :=
  (exec_next_iff _ s _).mpr (handle_jalr referenceConfig rd rs s)

/-- Settles O18: npc is the target of `exec_jr`, and the frame is JR's own (R37). -/
theorem jumpRegisterWritesNextPcOnly : Obligations.JumpRegisterWritesNextPcOnly := by
  intro s rs
  have h := exec_jr s rs
  exact ⟨_, h, toNat_readWord s rs, handle_sameExcept ((exec_next_iff _ s _).mp h)⟩

/-- Settles O19: the target is a read of `s` itself, so the link cannot reach it, `rd = rs` or not; npc is set after the link and
leaves `rd` alone. -/
theorem jumpAndLinkReadsTargetBeforeWritingLink : Obligations.JumpAndLinkReadsTargetBeforeWritingLink := by
  intro s rd rs
  have h := exec_jalr s rd rs
  refine ⟨_, h, toNat_readWord s rs, ?_, ?_, handle_sameExcept ((exec_next_iff _ s _).mp h)⟩
  · rw [State.readWord, setNpc_reg, setReg_reg_same, lowWord_sextWord, toNat_pc_add_eight]
  · rw [setNpc_reg, setReg_reg_same]
    exact wordCanonical_sextWord _

end Sys2Proof.Machine
end

section
/-! PROOFS, spec/42_moves.md: the zero test at 128 bits (D9), the state each of the eight moves completes in (R95 to R103), and
what a copy into `rd` leaves. -/

namespace Sys2Proof.Machine

/-! ## The zero test and the low dword as a number -/

/-- The 128-bit zero test holds of the zero value alone (D9). -/
theorem testsZero_qword (x : Qword) : testsZero .qword x = decide (x = 0) :=
  decide_eq_decide.mpr (BitVec.toNat_eq (y := 0)).symm

/-- The low dword of a register is the register mod 2^64 (R15). -/
theorem toNat_readDword (s : State) (i : RegIdx) : (s.readDword i).toNat = (s.reg i).toNat % 2 ^ 64 :=
  BitVec.toNat_setWidth 64 (s.reg i)

/-! ## What each move answers -/

section
variable (s : State) (rd rs rt : RegIdx)

/-- MOVZ completes with the copy exactly where `rt` is zero (R95). -/
theorem exec_movz : exec (.movz rd rs rt) s = .next (if s.reg rt = 0 then s.setReg rd (s.reg rs) else s) := by
  have h : exec (.movz rd rs rt) s = .next (if testsZero .qword (s.reg rt) then s.setReg rd (s.reg rs) else s) := rfl
  simpa only [testsZero_qword, decide_eq_true_eq] using h

/-- MOVN completes with the copy exactly where `rt` is not zero (R96). -/
theorem exec_movn : exec (.movn rd rs rt) s = .next (if s.reg rt ≠ 0 then s.setReg rd (s.reg rs) else s) := by
  have h : exec (.movn rd rs rt) s = .next (if !testsZero .qword (s.reg rt) then s.setReg rd (s.reg rs) else s) := rfl
  simpa only [testsZero_qword, Bool.not_eq_true', decide_eq_false_iff_not] using h

theorem exec_mfhi : exec (.mfhi rd) s = .next (s.setReg rd s.hi) := rfl

theorem exec_mthi : exec (.mthi rs) s = .next (s.setHi (s.reg rs)) := rfl

theorem exec_mflo : exec (.mflo rd) s = .next (s.setReg rd s.lo) := rfl

theorem exec_mtlo : exec (.mtlo rs) s = .next (s.setLo (s.reg rs)) := rfl

/-- MFSA narrows to a dword what is a sign-extended dword already, so `rd` takes SA sign-extended (R102, D2). -/
theorem exec_mfsa : exec (.mfsa rd) s = .next (s.setReg rd (sextDword s.sa)) :=
  (exec_next_iff _ s _).mpr (congrArg (fun d => Except.ok (s.setReg rd (sextDword d))) (lowDword_sextDword s.sa))

/-- MTSA completes with the low dword of `rs`, unmasked, in SA (R103, R104). -/
theorem exec_mtsa : exec (.mtsa rs) s = .next (s.setSa (s.readDword rs)) :=
  (exec_next_iff _ s _).mpr (congrArg (fun d => Except.ok (s.setSa d)) (lowDword_sextDword (s.readDword rs)))

end

/-- A copy into `rd`: the whole register is the value, and nothing else changes (R97). -/
theorem next_setReg {o : Host.Outcome State Fault Refusal} {s : State} {rd : RegIdx} {v : Qword}
    (ho : o = .next (s.setReg rd v)) : ∃ t, o = .next t ∧ t.reg rd = v ∧ SameExcept [.gpr rd] s t := by
  obtain ⟨-, -, hreg, hframe⟩ := reads_of_setReg s rd v
  exact ⟨_, ho, hreg, hframe⟩

/-! ## The statements -/

/-- Settles O23: MFSA reads in SA the low dword that MTSA put there; the frames of the two writes compose. -/
theorem saRoundTripSignExtendsTheDword : Obligations.SaRoundTripSignExtendsTheDword := by
  intro s rd rs
  refine ⟨_, _, exec_mtsa s rs, exec_mfsa _ rd, ?_, ?_⟩
  · rw [setReg_reg_same, toInt_sextDword, setSa_sa]
  · exact sameExcept_trans _ _ _ _ (sameExcept_setSa _ s _ (by simp)) (sameExcept_setReg _ _ rd _ (by simp))

/-- Settles O20: each move answers one of its two branches, by whether `rt` is zero. -/
theorem conditionalMovesCopyAllBitsOrNothing : Obligations.ConditionalMovesCopyAllBitsOrNothing := by
  intro s rd rs rt
  have movz := exec_movz s rd rs rt
  have movn := exec_movn s rd rs rt
  refine ⟨fun hz => next_setReg ?_, fun hnz => ?_, fun hnz => next_setReg ?_, fun hz => ?_⟩
  · rw [movz, if_pos hz]
  · rw [movz, if_neg hnz]
  · rw [movn, if_pos hnz]
  · rw [movn, if_neg (not_not_intro hz)]

/-- Settles O21: each transfer is one write of the whole 128-bit value. -/
theorem hiLoTransfersCopyAllBits : Obligations.HiLoTransfersCopyAllBits :=
  fun s r =>
    ⟨next_setReg (exec_mfhi s r),
      ⟨_, exec_mthi s r, setHi_hi s _, sameExcept_setHi _ s _ (by simp)⟩,
      next_setReg (exec_mflo s r),
      ⟨_, exec_mtlo s r, setLo_lo s _, sameExcept_setLo _ s _ (by simp)⟩⟩

/-- Settles O22: MTSA's SA as a number mod 2^64, MFSA's register as a signed number. -/
theorem saTransfersCopySixtyFourBits : Obligations.SaTransfersCopySixtyFourBits :=
  fun s r =>
    ⟨⟨_, exec_mtsa s r, toNat_readDword s r, sameExcept_setSa _ s _ (by simp)⟩,
      next_sextDword_toInt (exec_mfsa s r) rfl⟩

end Sys2Proof.Machine
end

section
/-! PROOFS, spec/43_muldiv.md: the halves of a product (R105), integer division toward zero and its range (R109, R113), the HI and
LO each of the four instructions completes with (R106 to R112), and what of a handler depends on DIV0 (R111, R114). -/

namespace Sys2Proof.Machine

/-! ## A word in HI and a word in LO -/

/-- A sign-extended word in each of HI and LO: the two low words are those words, and nothing else changes (R105, R109). -/
theorem next_setHiLo_sextWord {o : Host.Outcome State Fault Refusal} {s : State} {h l : Word}
    (ho : o = .next (s.setHiLo ⟨sextWord h, sextWord l⟩)) :
    ∃ t, o = .next t ∧ lowWord t.hi = h ∧ lowWord t.lo = l ∧
      WordCanonical t.hi ∧ WordCanonical t.lo ∧ SameExcept [.lo, .hi] s t :=
  ⟨_, ho, lowWord_sextWord h, lowWord_sextWord l, wordCanonical_sextWord h, wordCanonical_sextWord l,
    sameExcept_setHiLo _ s _ (by simp) (by simp)⟩

/-! ## Multiply -/

theorem extractLsb'_halves (p : Dword) : p.extractLsb' 32 32 ++ p.extractLsb' 0 32 = p := by
  rw [BitVec.extractLsb'_append_extractLsb'_eq_extractLsb' (by decide), BitVec.extractLsb'_eq_self]

/-- The halves of a 64-bit product weigh up to it as a signed number, the low half unsigned (R105). -/
theorem toInt_halves (p : Dword) :
    (p.extractLsb' 32 32).toInt * 2 ^ 32 + ((p.extractLsb' 0 32).toNat : Int) = p.toInt := by
  have h := BitVec.toInt_append (x := p.extractLsb' 32 32) (y := p.extractLsb' 0 32)
  rw [extractLsb'_halves] at h
  rw [h, if_neg (by decide), mul_comm]

/-- The halves of a 64-bit product weigh up to it as an unsigned number (R105). -/
theorem toNat_halves (p : Dword) : (p.extractLsb' 32 32).toNat * 2 ^ 32 + (p.extractLsb' 0 32).toNat = p.toNat := by
  simp only [BitVec.extractLsb'_toNat, Nat.shiftRight_eq_div_pow]
  omega

/-- The signed product of two words fits 64 bits, so R106's reduction mod 2^64 loses nothing. -/
theorem toInt_ofInt_mul (a b : Word) : (BitVec.ofInt 64 (a.toInt * b.toInt)).toInt = a.toInt * b.toInt := by
  have hle : a.toInt * b.toInt ≤ 2 ^ 62 := BitVec.toInt_mul_toInt_le
  have hge : -2 ^ 62 ≤ a.toInt * b.toInt := BitVec.le_toInt_mul_toInt
  exact BitVec.toInt_ofInt_eq_self (by decide) (by omega) (by omega)

/-- The unsigned product of two words fits 64 bits (R107). -/
theorem toNat_ofNat_mul (a b : Word) : (BitVec.ofNat 64 (a.toNat * b.toNat)).toNat = a.toNat * b.toNat :=
  have hlt : a.toNat * b.toNat < 2 ^ 32 * 2 ^ 32 := Nat.mul_lt_mul'' a.isLt b.isLt
  (BitVec.toNat_ofNat _ 64).trans (Nat.mod_eq_of_lt hlt)

theorem exec_mult (s : State) (rs rt : RegIdx) : exec (.mult rs rt) s =
    .next (s.setHiLo (productHiLo (BitVec.ofInt 64 ((s.readWord rs).toInt * (s.readWord rt).toInt)))) := rfl

theorem exec_multu (s : State) (rs rt : RegIdx) : exec (.multu rs rt) s =
    .next (s.setHiLo (productHiLo (BitVec.ofNat 64 ((s.readWord rs).toNat * (s.readWord rt).toNat)))) := rfl

/-- Settles O24: the halves of the 64-bit product give it back, and no product of two words is cut. -/
theorem multiplyPutsTheExactProductInHiLo : Obligations.MultiplyPutsTheExactProductInHiLo := by
  refine fun s rs rt => ⟨?_, ?_⟩
  · obtain ⟨t, ho, hhi, hlo, hframe⟩ := next_setHiLo_sextWord (exec_mult s rs rt)
    refine ⟨t, ho, ?_, hframe⟩
    rw [hhi, hlo, toInt_halves, toInt_ofInt_mul]
  · obtain ⟨t, ho, hhi, hlo, hframe⟩ := next_setHiLo_sextWord (exec_multu s rs rt)
    refine ⟨t, ho, ?_, hframe⟩
    rw [hhi, hlo, toNat_halves, toNat_ofNat_mul]

/-! ## Division toward zero, on integers (R113) -/

theorem mul_pos_of_sign_eq {a b : Int} (ha : a ≠ 0) (h : a.sign = b.sign) : 0 < a * b := by
  rcases ha.lt_or_gt with hneg | hpos
  · exact mul_pos_of_neg_of_neg hneg (Int.sign_eq_neg_one_iff_neg.mp (h.symm.trans (Int.sign_eq_neg_one_of_neg hneg)))
  · exact mul_pos hpos (Int.sign_eq_one_iff_pos.mp (h.symm.trans (Int.sign_eq_one_of_pos hpos)))

theorem natAbs_tmod_lt (n : Int) {d : Int} (hd : d ≠ 0) : (n.tmod d).natAbs < d.natAbs := by
  rw [Int.natAbs_tmod]
  exact Nat.mod_lt _ (Int.natAbs_pos.mpr hd)

/-- The remainder is zero or has the dividend's sign (R113). -/
theorem tmod_sign_cases (n d : Int) : n.tmod d = 0 ∨ 0 < n.tmod d * n := by
  refine or_iff_not_imp_left.mpr fun hr => mul_pos_of_sign_eq hr ?_
  have hdvd : ¬d ∣ n := fun h => hr (Int.tmod_eq_zero_of_dvd h)
  rw [Int.sign_tmod, if_neg hdvd]

/-- The quotient is zero or has the sign of the product of dividend and divisor (R113). -/
theorem tdiv_sign_cases (n d : Int) : n.tdiv d = 0 ∨ 0 < n.tdiv d * (n * d) := by
  refine or_iff_not_imp_left.mpr fun hq => mul_pos_of_sign_eq hq ?_
  have hsign := Int.sign_tdiv n d
  split at hsign
  · exact absurd (Int.sign_eq_zero_iff_zero.mp hsign) hq
  · rw [hsign, Int.sign_mul]

/-- The quotient of two words fits a word but for -2^31 / -1 (R112). -/
theorem tdiv_toInt_bounds {n d : Word} (hd : d.toInt ≠ 0) (hovf : ¬(n.toInt = -2147483648 ∧ d.toInt = -1)) :
    -2 ^ 31 ≤ n.toInt.tdiv d.toInt ∧ n.toInt.tdiv d.toInt < 2 ^ 31 := by
  have hge : -2 ^ 31 ≤ n.toInt := BitVec.le_toInt n
  have hlt : n.toInt < 2 ^ 31 := BitVec.toInt_lt
  have habs := Int.natAbs_tdiv_le_natAbs n.toInt d.toInt
  have hmax : n.toInt.tdiv d.toInt ≠ 2 ^ 31 := by
    intro hq
    have hdiv := Int.tdiv_mul_add_tmod n.toInt d.toInt
    have hr := natAbs_tmod_lt n.toInt hd
    rw [hq] at hdiv
    omega
  omega

theorem toInt_ofInt_tdiv {n d : Word} (hd : d.toInt ≠ 0) (hovf : ¬(n.toInt = -2147483648 ∧ d.toInt = -1)) :
    (BitVec.ofInt 32 (n.toInt.tdiv d.toInt)).toInt = n.toInt.tdiv d.toInt :=
  have ⟨hge, hlt⟩ := tdiv_toInt_bounds hd hovf
  BitVec.toInt_ofInt_eq_self (by decide) hge hlt

/-- The remainder is smaller than the divisor, a word, so it fits a word. -/
theorem toInt_ofInt_tmod (n : Word) {d : Word} (hd : d.toInt ≠ 0) :
    (BitVec.ofInt 32 (n.toInt.tmod d.toInt)).toInt = n.toInt.tmod d.toInt := by
  have hge : -2 ^ 31 ≤ d.toInt := BitVec.le_toInt d
  have hlt : d.toInt < 2 ^ 31 := BitVec.toInt_lt
  have hr := natAbs_tmod_lt n.toInt hd
  exact BitVec.toInt_ofInt_eq_self (by decide) (by omega) (by omega)

/-! ## What DIV and DIVU answer -/

section
variable {s : State} {rs rt : RegIdx}

/-- DIV by zero completes with the fill values (R111, D6). -/
theorem exec_div_of_zero (hd : s.readWord rt = 0) :
    exec (.div rs rt) s = .next (s.setHiLo (div0Fill .signed (sextWord (s.readWord rs)) ⟨s.hi, s.lo⟩)) := by
  have hzero : (s.readWord rt).toInt = 0 := congrArg BitVec.toInt hd
  exact (exec_next_iff _ s _).mpr ((handleDiv_reference rs rt s).trans (by rw [if_pos hzero]))

/-- DIV of -2^31 by -1 completes with the overflow values (R112, D7). -/
theorem exec_div_of_overflow (hn : (s.readWord rs).toInt = -2147483648) (hd : (s.readWord rt).toInt = -1) :
    exec (.div rs rt) s = .next (s.setHiLo divOvfWrap) :=
  (exec_next_iff _ s _).mpr ((handleDiv_reference rs rt s).trans
    (by rw [if_neg (hd.trans_ne (by decide)), if_pos ⟨hn, hd⟩]))

/-- Everywhere else DIV completes with quotient and remainder rounded toward zero (R109). -/
theorem exec_div_of_regular (hd : (s.readWord rt).toInt ≠ 0)
    (hovf : ¬((s.readWord rs).toInt = -2147483648 ∧ (s.readWord rt).toInt = -1)) :
    exec (.div rs rt) s = .next (s.setHiLo
      ⟨sextWord (BitVec.ofInt 32 ((s.readWord rs).toInt.tmod (s.readWord rt).toInt)),
        sextWord (BitVec.ofInt 32 ((s.readWord rs).toInt.tdiv (s.readWord rt).toInt))⟩) :=
  (exec_next_iff _ s _).mpr ((handleDiv_reference rs rt s).trans
    (by rw [if_neg hd, if_neg hovf, quotientHiLo_word, Int.tmod_def, mul_comm]))

/-- DIVU by zero completes with the fill values (R111, D6). -/
theorem exec_divu_of_zero (hd : s.readWord rt = 0) :
    exec (.divu rs rt) s = .next (s.setHiLo (div0Fill .unsigned (sextWord (s.readWord rs)) ⟨s.hi, s.lo⟩)) := by
  have hzero : (s.readWord rt).toNat = 0 := congrArg BitVec.toNat hd
  exact (exec_next_iff _ s _).mpr ((handleDivu_reference rs rt s).trans (by rw [if_pos hzero]))

/-- Everywhere else DIVU completes with the unsigned quotient and remainder (R110). -/
theorem exec_divu_of_ne (hd : (s.readWord rt).toNat ≠ 0) :
    exec (.divu rs rt) s = .next (s.setHiLo
      ⟨sextWord (BitVec.ofNat 32 ((s.readWord rs).toNat % (s.readWord rt).toNat)),
        sextWord (BitVec.ofNat 32 ((s.readWord rs).toNat / (s.readWord rt).toNat))⟩) :=
  (exec_next_iff _ s _).mpr ((handleDivu_reference rs rt s).trans
    (by rw [if_neg hd, quotientHiLo_word, BitVec.ofInt_natCast, BitVec.ofInt_natCast, Nat.mod_eq_sub_div_mul]))

end

/-! ## The statements about regular divisions -/

/-- Settles O25: both results fit a word, so the low words of LO and HI are the integers' quotient and remainder. -/
theorem divideTruncatesTowardZero : Obligations.DivideTruncatesTowardZero := by
  intro s rs rt hd hovf
  obtain ⟨t, ho, hhi, hlo, hframe⟩ := next_setHiLo_sextWord (exec_div_of_regular hd hovf)
  have hr := hhi ▸ toInt_ofInt_tmod (s.readWord rs) hd
  have hq := hlo ▸ toInt_ofInt_tdiv hd hovf
  refine ⟨t, ho, ?_, ?_, ?_, ?_, hframe⟩ <;> simp only [hr, hq]
  · exact (Int.tdiv_mul_add_tmod _ _).symm
  · exact natAbs_tmod_lt _ hd
  · exact tmod_sign_cases _ _
  · exact tdiv_sign_cases _ _

/-- Settles O26: neither result exceeds the dividend, a word, so neither is cut. -/
theorem divideUnsignedGivesQuotientAndRemainder : Obligations.DivideUnsignedGivesQuotientAndRemainder := by
  intro s rs rt hd
  obtain ⟨t, ho, hhi, hlo, hframe⟩ := next_setHiLo_sextWord (exec_divu_of_ne (rs := rs) hd)
  have hr : (lowWord t.hi).toNat = (s.readWord rs).toNat % (s.readWord rt).toNat := by
    rw [hhi, BitVec.toNat_ofNat, Nat.mod_eq_of_lt ((Nat.mod_le _ _).trans_lt (s.readWord rs).isLt)]
  have hq : (lowWord t.lo).toNat = (s.readWord rs).toNat / (s.readWord rt).toNat := by
    rw [hlo, BitVec.toNat_ofNat, Nat.mod_eq_of_lt ((Nat.div_le_self _ _).trans_lt (s.readWord rs).isLt)]
  refine ⟨t, ho, ?_, ?_, hframe⟩
  · rw [hr, hq, Nat.div_add_mod']
  · rw [hr]
    exact Nat.mod_lt _ (Nat.pos_of_ne_zero hd)

/-! ## Division by zero and overflow (D6, D7) -/

/-- The fill value of LO after a signed divide by zero, as a 128-bit value (R111, D6). -/
theorem div0Fill_signed_lo (n : Qword) (old : HiLo) :
    (div0Fill .signed n old).lo = if n.toInt < 0 then 1 else 0xFFFFFFFFFFFFFFFFFFFFFFFFFFFFFFFF := by
  show (if 0 ≤ n.toInt then sextWord 0xFFFFFFFF else sextWord 0x00000001) = _
  by_cases hneg : n.toInt < 0
  · rw [if_neg (by omega), if_pos hneg]
    decide
  · rw [if_pos (by omega), if_neg hneg]
    decide

/-- Settles O27: the two fills, whose HI is the sign-extended dividend. -/
theorem divideByZeroFillsUnderTheDefaultPolicy : Obligations.DivideByZeroFillsUnderTheDefaultPolicy := by
  intro s rs rt hd
  have hframe (p : HiLo) : SameExcept [.lo, .hi] s (s.setHiLo p) := sameExcept_setHiLo _ s p (by simp) (by simp)
  have hones : sextWord 0xFFFFFFFF = 0xFFFFFFFFFFFFFFFFFFFFFFFFFFFFFFFF := by decide
  refine ⟨⟨_, exec_div_of_zero hd, ?_, toInt_sextWord _, hframe _⟩,
    ⟨_, exec_divu_of_zero hd, hones, toInt_sextWord _, hframe _⟩⟩
  rw [setHiLo_lo, div0Fill_signed_lo, toInt_sextWord]

/-- Settles O29: the operand words are -2^31 and -1 as numbers. -/
theorem divideOverflowWrapsTheQuotient : Obligations.DivideOverflowWrapsTheQuotient := by
  intro s rs rt hn hd
  have hovf := exec_div_of_overflow (s := s) (rs := rs) (rt := rt) (hn ▸ by decide) (hd ▸ by decide)
  exact ⟨_, hovf, toInt_sextWord 0x80000000, rfl, sameExcept_setHiLo _ s _ (by simp) (by simp)⟩

/-! ## What depends on DIV0 (R111) -/

section
variable {c : Config} {a b : Qword}

/-- At every width the signed and the unsigned view of a value are zero together. -/
theorem viewSigned_eq_zero_iff (v : View) (x : Qword) : viewSigned v x = 0 ↔ viewUnsigned v x = 0 := by
  have hzero {w : Nat} (y : BitVec w) : y.toInt = 0 ↔ y.toNat = 0 := by
    rw [← BitVec.toInt_zero (w := w), BitVec.toInt_inj, ← BitVec.toNat_inj, BitVec.toNat_zero]
  cases v with
  | word => exact hzero (lowWord x)
  | dword => exact hzero (lowDword x)
  | qword => exact hzero x

theorem divideSigned_of_zero (hb : viewUnsigned c.divWidth b = 0) (old : HiLo) :
    divideSigned c a b old = c.div0 .signed (viewNarrow c.divWidth a) old :=
  if_pos ((viewSigned_eq_zero_iff _ _).mpr hb)

theorem divideUnsigned_of_zero (hb : viewUnsigned c.divWidth b = 0) (old : HiLo) :
    divideUnsigned c a b old = c.div0 .unsigned (viewNarrow c.divWidth a) old :=
  if_pos hb

/-- A signed divide by a divisor that is not zero does not ask DIV0 (R109, R112). -/
theorem divideSigned_div0_irrel (hb : viewUnsigned c.divWidth b ≠ 0) (f : Signedness → Qword → HiLo → HiLo) (old : HiLo) :
    divideSigned { c with div0 := f } a b old = divideSigned c a b old := by
  have hne := mt (viewSigned_eq_zero_iff c.divWidth b).mp hb
  exact (if_neg hne).trans (if_neg hne).symm

/-- An unsigned divide by a divisor that is not zero does not ask DIV0 (R110). -/
theorem divideUnsigned_div0_irrel (hb : viewUnsigned c.divWidth b ≠ 0) (f : Signedness → Qword → HiLo → HiLo) (old : HiLo) :
    divideUnsigned { c with div0 := f } a b old = divideUnsigned c a b old :=
  (if_neg hb).trans (if_neg hb).symm

end

section
variable {c : Config} {s : State} {rs rt : RegIdx}

theorem handle_div_of_zero (hd : viewUnsigned c.divWidth (s.reg rt) = 0) : handle c (.div rs rt) s =
    .ok (s.writeHiLo c (c.div0 .signed (viewNarrow c.divWidth (s.reg rs)) (s.readHiLo c))) :=
  congrArg (fun p => Except.ok (s.writeHiLo c p)) (divideSigned_of_zero hd _)

theorem handle_divu_of_zero (hd : viewUnsigned c.divWidth (s.reg rt) = 0) : handle c (.divu rs rt) s =
    .ok (s.writeHiLo c (c.div0 .unsigned (viewNarrow c.divWidth (s.reg rs)) (s.readHiLo c))) :=
  congrArg (fun p => Except.ok (s.writeHiLo c p)) (divideUnsigned_of_zero hd _)

/-- Writing back what HI and LO of 128 bits read as changes nothing (R22, R23). -/
theorem writeHiLo_readHiLo_of_qword (hhi : c.hiWidth = .qword) (hlo : c.loWidth = .qword) (s : State) :
    s.writeHiLo c (s.readHiLo c) = s := by
  simp only [State.writeHiLo, State.readHiLo, State.readHi, State.readLo, hhi, hlo, viewNarrow_qword]
  rfl

/-- Where DIV0 is the no-op, a divide by zero with HI and LO of 128 bits leaves the state as it was (R111, conflict C5). -/
theorem handle_divides_of_div0Noop (hc : c.div0 = div0Noop) (hd : viewUnsigned c.divWidth (s.reg rt) = 0)
    (hhi : c.hiWidth = .qword) (hlo : c.loWidth = .qword) :
    handle c (.div rs rt) s = .ok s ∧ handle c (.divu rs rt) s = .ok s := by
  rw [handle_div_of_zero hd, handle_divu_of_zero hd, hc, div0Noop, div0Noop, writeHiLo_readHiLo_of_qword hhi hlo]
  exact ⟨rfl, rfl⟩

/-- Apart from DIV and DIVU no handler asks DIV0 (R111). -/
theorem handle_div0_irrel (f : Signedness → Qword → HiLo → HiLo) {i : Instr}
    (hi : ∀ a b, i ≠ .div a b ∧ i ≠ .divu a b) (s : State) : handle { c with div0 := f } i s = handle c i s := by
  cases i with
  | div rs rt => exact absurd rfl (hi rs rt).1
  | divu rs rt => exact absurd rfl (hi rs rt).2
  | _ => rfl

end

/-- Settles O28: a zero divisor takes the DIV0 branch of both divisions; every other divisor and instruction avoids it. -/
theorem divideByZeroIsExactlyTheParameter : Obligations.DivideByZeroIsExactlyTheParameter := by
  refine fun c f s rs rt => ⟨fun hd => ⟨handle_div_of_zero hd, handle_divu_of_zero hd, fun hhi hlo => ?_⟩, fun hw => ?_,
    fun hd => ⟨?_, ?_⟩, fun i hi => handle_div0_irrel f hi s⟩
  · exact handle_divides_of_div0Noop (c := { c with div0 := div0Noop }) rfl hd hhi hlo
  · rw [hw]
    exact ⟨(BitVec.toNat_eq (x := s.readWord rt) (y := 0)).symm, viewNarrow_word _⟩
  · exact congrArg (fun p => Except.ok (s.writeHiLo c p)) (divideSigned_div0_irrel hd f _)
  · exact congrArg (fun p => Except.ok (s.writeHiLo c p)) (divideUnsigned_div0_irrel hd f _)

end Sys2Proof.Machine
end

section
/-! PROOFS, spec/44_addsub.md: signed overflow as a range test and in bit form (R125), the result as a number where it does not
overflow (R116 to R119) and mod 2^N (R120), and what each of the eight instructions answers (R115, R121 to R124). -/

namespace Sys2Proof.Machine

/-! ## Signed overflow: range test and bit form (R125) -/

theorem fitsSigned_iff (n : Nat) (k : Int) : fitsSigned n k = true ↔ -2 ^ (n - 1) ≤ k ∧ k < 2 ^ (n - 1) := by
  simp [fitsSigned]

/-- Out of range, above or below. -/
theorem not_fitsSigned_eq (n : Nat) (k : Int) :
    (!fitsSigned n k) = (decide (k ≥ 2 ^ (n - 1)) || decide (k < -2 ^ (n - 1))) := by
  rw [Bool.eq_iff_iff, Bool.not_eq_true', Bool.eq_false_iff, ne_eq, fitsSigned_iff, Bool.or_eq_true, decide_eq_true_eq,
    decide_eq_true_eq]
  omega

theorem fitsSigned_word_iff (k : Int) : fitsSigned 32 k = true ↔ -2147483648 ≤ k ∧ k ≤ 2147483647 := by
  rw [fitsSigned_iff]
  omega

theorem fitsSigned_dword_iff (k : Int) :
    fitsSigned 64 k = true ↔ -9223372036854775808 ≤ k ∧ k ≤ 9223372036854775807 := by
  rw [fitsSigned_iff]
  omega

section
variable {n : Nat} (a b : BitVec n)

/-- The model's range test is the library's overflow predicate, whose bit form and exact result are known. -/
theorem addOverflows_eq_saddOverflow : addOverflows a b = a.saddOverflow b := not_fitsSigned_eq n _

theorem subOverflows_eq_ssubOverflow : subOverflows a b = a.ssubOverflow b := not_fitsSigned_eq n _

/-- A sum overflows exactly when operands of one sign give a sum of the other (R125). -/
theorem addOverflows_iff_msb : addOverflows a b = true ↔ a.msb = b.msb ∧ (a + b).msb ≠ a.msb := by
  rw [addOverflows_eq_saddOverflow, BitVec.saddOverflow_eq]
  simp

/-- A difference overflows exactly when the operands differ in sign and the difference has not the first one's (R125). -/
theorem subOverflows_iff_msb : subOverflows a b = true ↔ a.msb ≠ b.msb ∧ (a - b).msb ≠ a.msb := by
  rw [subOverflows_eq_ssubOverflow, BitVec.ssubOverflow_eq]
  cases a.msb <;> cases b.msb <;> simp

end

/-- Settles O31: the bit forms hold at every width. -/
theorem overflowPredicatesAgreeWithBitForm : Obligations.OverflowPredicatesAgreeWithBitForm :=
  ⟨fun a b => ⟨addOverflows_iff_msb a b, subOverflows_iff_msb a b⟩,
    fun a b => ⟨addOverflows_iff_msb a b, subOverflows_iff_msb a b⟩⟩

/-! ## The result as a number -/

section
variable {n : Nat} {a b : BitVec n}

/-- In range, the wrapped sum is the exact one. -/
theorem toInt_add_of_fitsSigned (h : fitsSigned n (a.toInt + b.toInt) = true) : (a + b).toInt = a.toInt + b.toInt := by
  refine BitVec.toInt_add_of_not_saddOverflow ?_
  rw [← addOverflows_eq_saddOverflow, addOverflows, h]
  decide

/-- In range, the wrapped difference is the exact one. -/
theorem toInt_sub_of_fitsSigned (h : fitsSigned n (a.toInt - b.toInt) = true) : (a - b).toInt = a.toInt - b.toInt := by
  refine BitVec.toInt_sub_of_not_ssubOverflow ?_
  rw [← subOverflows_eq_ssubOverflow, subOverflows, h]
  decide

end

theorem natCast_toNat_add {n : Nat} (a b : BitVec n) :
    ((a + b).toNat : Int) = ((a.toNat : Int) + (b.toNat : Int)) % 2 ^ n := by
  rw [BitVec.toNat_add]
  push_cast
  rfl

/-- The library's difference adds the complement of `b` to 2^n; over the integers that is `a - b` mod 2^n (R120). -/
theorem natCast_toNat_sub {n : Nat} (a b : BitVec n) :
    ((a - b).toNat : Int) = ((a.toNat : Int) - (b.toNat : Int)) % 2 ^ n := by
  rw [BitVec.toNat_sub, Int.natCast_mod, Nat.cast_add, Nat.cast_sub b.isLt.le, Nat.cast_pow, Nat.cast_ofNat, sub_add_eq_add_sub,
    add_sub_assoc, Int.add_emod_left]

/-! ## What each instruction answers -/

/-- An instruction handled by the trapping word contract faults on overflow, else completes with the sign-extended word (R115). -/
theorem exec_of_trappingWord {i : Instr} {s : State} {op : OverflowOp} {ov : Bool} {rd : RegIdx} {v : Word}
    (hi : handle referenceConfig i s = trappingWord referenceConfig op ov rd v s) :
    exec i s = if ov then .fault (.arithmeticOverflow op) else .next (s.setReg rd (sextWord v)) := by
  rcases trappingWord_cases referenceConfig op ov rd v s with ⟨rfl, hov⟩ | ⟨rfl, hov⟩
  · exact (exec_fault_iff i s _).mpr (hi.trans hov)
  · exact (exec_next_iff i s _).mpr (hi.trans hov)

/-- An instruction handled by the trapping doubleword contract faults on overflow, else completes with the sign-extended dword
(R115). -/
theorem exec_of_trappingDword {i : Instr} {s : State} {op : OverflowOp} {ov : Bool} {rd : RegIdx} {d : Dword}
    (hi : handle referenceConfig i s = trappingDword referenceConfig op ov rd d s) :
    exec i s = if ov then .fault (.arithmeticOverflow op) else .next (s.setReg rd (sextDword d)) := by
  rcases trappingDword_cases referenceConfig op ov rd d s with ⟨rfl, hov⟩ | ⟨rfl, hov⟩
  · exact (exec_fault_iff i s _).mpr (hi.trans hov)
  · exact (exec_next_iff i s _).mpr (hi.trans hov)

section
variable (s : State) (rd rs rt : RegIdx)

theorem exec_add : exec (.add rd rs rt) s =
    if addOverflows (s.readWord rs) (s.readWord rt) then .fault (.arithmeticOverflow .add)
    else .next (s.setReg rd (sextWord (s.readWord rs + s.readWord rt))) := exec_of_trappingWord rfl

theorem exec_sub : exec (.sub rd rs rt) s =
    if subOverflows (s.readWord rs) (s.readWord rt) then .fault (.arithmeticOverflow .sub)
    else .next (s.setReg rd (sextWord (s.readWord rs - s.readWord rt))) := exec_of_trappingWord rfl

theorem exec_dadd : exec (.dadd rd rs rt) s =
    if addOverflows (s.readDword rs) (s.readDword rt) then .fault (.arithmeticOverflow .dadd)
    else .next (s.setReg rd (sextDword (s.readDword rs + s.readDword rt))) := exec_of_trappingDword rfl

theorem exec_dsub : exec (.dsub rd rs rt) s =
    if subOverflows (s.readDword rs) (s.readDword rt) then .fault (.arithmeticOverflow .dsub)
    else .next (s.setReg rd (sextDword (s.readDword rs - s.readDword rt))) := exec_of_trappingDword rfl

theorem exec_addu : exec (.addu rd rs rt) s = .next (s.setReg rd (sextWord (s.readWord rs + s.readWord rt))) := rfl

theorem exec_subu : exec (.subu rd rs rt) s = .next (s.setReg rd (sextWord (s.readWord rs - s.readWord rt))) := rfl

theorem exec_daddu : exec (.daddu rd rs rt) s = .next (s.setReg rd (sextDword (s.readDword rs + s.readDword rt))) := rfl

theorem exec_dsubu : exec (.dsubu rd rs rt) s = .next (s.setReg rd (sextDword (s.readDword rs - s.readDword rt))) := rfl

end

/-! ## The two contracts: trapping (R115) and wrapping (R120) -/

section
variable {o : Host.Outcome State Fault Refusal} {s : State} {rd : RegIdx}

/-- A trapping form whose exact result is `k`: in range it completes with `k` in `rd`, out of range it faults (R115). -/
theorem trapping_completes_iff_fits {n : Nat} {k : Int} {f : Fault} {q : Qword}
    (ho : o = if !fitsSigned n k then .fault f else .next (s.setReg rd q)) (hq : fitsSigned n k = true → q.toInt = k) :
    (fitsSigned n k = true → ∃ t, o = .next t ∧ (t.reg rd).toInt = k ∧ SameExcept [.gpr rd] s t) ∧
      (¬fitsSigned n k = true → o = .fault f) := by
  refine ⟨fun hfit => ?_, fun hfit => ?_⟩
  · rw [hfit] at ho
    obtain ⟨t, hnext, hreg, hframe⟩ := next_setReg ho
    exact ⟨t, hnext, hreg ▸ hq hfit, hframe⟩
  · rw [Bool.eq_false_iff.mpr hfit] at ho
    exact ho

/-- Where a trapping form completes, the wrapping form that writes the same value gives the same state (R120). -/
theorem wrapping_agrees_with_trapping {o' : Host.Outcome State Fault Refusal} {ov : Bool} {f : Fault} {u : State}
    (ho : o = if ov then .fault f else .next u) (hw : o' = .next u) (t : State) (ht : o = .next t) : o' = .next t := by
  cases ov with
  | true => exact absurd (ho.symm.trans ht) nofun
  | false => exact hw.trans (ho.symm.trans ht)

/-- `next_sextWord_toNat` for a value given as an integer. -/
theorem next_sextWord_natCast {v : Word} {k : Int} (ho : o = .next (s.setReg rd (sextWord v))) (hv : (v.toNat : Int) = k) :
    ∃ t, o = .next t ∧ ((t.readWord rd).toNat : Int) = k ∧ WordCanonical (t.reg rd) ∧ SameExcept [.gpr rd] s t := by
  obtain ⟨t, hnext, hword, hrest⟩ := next_sextWord_toNat ho rfl
  exact ⟨t, hnext, hword ▸ hv, hrest⟩

/-- `next_sextDword_toNat` for a value given as an integer. -/
theorem next_sextDword_natCast {d : Dword} {k : Int} (ho : o = .next (s.setReg rd (sextDword d))) (hd : (d.toNat : Int) = k) :
    ∃ t, o = .next t ∧ ((t.readDword rd).toNat : Int) = k ∧ DwordCanonical (t.reg rd) ∧ SameExcept [.gpr rd] s t := by
  obtain ⟨t, hnext, hdword, hrest⟩ := next_sextDword_toNat ho rfl
  exact ⟨t, hnext, hdword ▸ hd, hrest⟩

end

/-! ## The statements -/

/-- Settles O30: each overflow test is the range test on the exact result, and in range the written value is that result. -/
theorem trappingAddSubCompleteExactlyWhenTheResultFits : Obligations.TrappingAddSubCompleteExactlyWhenTheResultFits := by
  intro s rd rs rt
  simp only [← fitsSigned_word_iff, ← fitsSigned_dword_iff]
  exact ⟨trapping_completes_iff_fits (exec_add s rd rs rt) fun h => (toInt_sextWord _).trans (toInt_add_of_fitsSigned h),
    trapping_completes_iff_fits (exec_sub s rd rs rt) fun h => (toInt_sextWord _).trans (toInt_sub_of_fitsSigned h),
    trapping_completes_iff_fits (exec_dadd s rd rs rt) fun h => (toInt_sextDword _).trans (toInt_add_of_fitsSigned h),
    trapping_completes_iff_fits (exec_dsub s rd rs rt) fun h => (toInt_sextDword _).trans (toInt_sub_of_fitsSigned h)⟩

/-- Settles O32: each wrapping form writes what its trapping form writes where that completes. -/
theorem wrappingAddSubCompleteModuloTheWidth : Obligations.WrappingAddSubCompleteModuloTheWidth :=
  fun s rd rs rt =>
    ⟨next_sextWord_natCast (exec_addu s rd rs rt) (natCast_toNat_add _ _),
      next_sextWord_natCast (exec_subu s rd rs rt) (natCast_toNat_sub _ _),
      next_sextDword_natCast (exec_daddu s rd rs rt) (natCast_toNat_add _ _),
      next_sextDword_natCast (exec_dsubu s rd rs rt) (natCast_toNat_sub _ _),
      wrapping_agrees_with_trapping (exec_add s rd rs rt) (exec_addu s rd rs rt),
      wrapping_agrees_with_trapping (exec_sub s rd rs rt) (exec_subu s rd rs rt),
      wrapping_agrees_with_trapping (exec_dadd s rd rs rt) (exec_daddu s rd rs rt),
      wrapping_agrees_with_trapping (exec_dsub s rd rs rt) (exec_dsubu s rd rs rt)⟩

end Sys2Proof.Machine
end

section
/-! PROOFS, spec/45_logical_compare.md: the state each of the six instructions completes in (R128 to R133), the bits a logical
operation leaves in `rd` (R127), and the order of the 64-bit views that SLT, SLTU and the traps TLT, TLTU share (R134). -/

namespace Sys2Proof.Machine

/-! ## What each instruction answers -/

/-- An instruction handled by the trap contract faults where its condition holds on the dwords, else does nothing (R135, D8). -/
theorem exec_of_trapIf {i : Instr} {s : State} (k : TrapKind) (rs rt : RegIdx)
    (hi : handle referenceConfig i s = trapIf referenceConfig k rs rt s) :
    exec i s = if trapHolds .dword k (s.reg rs) (s.reg rt) then .fault (.trap k rs rt) else .next s := by
  rcases trapIf_cases referenceConfig k rs rt s with ⟨hholds, htrap⟩ | ⟨hholds, htrap⟩
  · exact ((exec_fault_iff i s _).mpr (hi.trans htrap)).trans (if_pos hholds).symm
  · exact ((exec_next_iff i s _).mpr (hi.trans htrap)).trans (if_neg (Bool.eq_false_iff.mp hholds)).symm

section
variable (s : State) (rd rs rt : RegIdx)

theorem exec_and : exec (.and rd rs rt) s = .next (s.setReg rd (s.reg rs &&& s.reg rt)) := rfl

theorem exec_or : exec (.or rd rs rt) s = .next (s.setReg rd (s.reg rs ||| s.reg rt)) := rfl

theorem exec_xor : exec (.xor rd rs rt) s = .next (s.setReg rd (s.reg rs ^^^ s.reg rt)) := rfl

theorem exec_nor : exec (.nor rd rs rt) s = .next (s.setReg rd (~~~(s.reg rs ||| s.reg rt))) := rfl

theorem exec_slt :
    exec (.slt rd rs rt) s = .next (s.setReg rd (boolQword (lessSigned (s.readDword rs) (s.readDword rt)))) := rfl

theorem exec_sltu :
    exec (.sltu rd rs rt) s = .next (s.setReg rd (boolQword (lessUnsigned (s.readDword rs) (s.readDword rt)))) := rfl

/-- TLT's condition is SLT's comparison (R134, R138). -/
theorem exec_tlt : exec (.tlt rs rt) s =
    if lessSigned (s.readDword rs) (s.readDword rt) then .fault (.trap .tlt rs rt) else .next s := exec_of_trapIf .tlt rs rt rfl

/-- TLTU's condition is SLTU's comparison (R134, R139). -/
theorem exec_tltu : exec (.tltu rs rt) s =
    if lessUnsigned (s.readDword rs) (s.readDword rt) then .fault (.trap .tltu rs rt) else .next s := exec_of_trapIf .tltu rs rt rfl

end

/-! ## What a completed write leaves in `rd` -/

section
variable {o : Host.Outcome State Fault Refusal} {s : State} {rd : RegIdx} {v : Qword}

/-- `next_setReg` for a value known by its 128 bits (R127). -/
theorem next_setReg_getLsbD {bit : Nat → Bool} (ho : o = .next (s.setReg rd v)) (hv : ∀ k, k < 128 → v.getLsbD k = bit k) :
    ∃ t, o = .next t ∧ (∀ k, k < 128 → (t.reg rd).getLsbD k = bit k) ∧ SameExcept [.gpr rd] s t := by
  obtain ⟨t, hnext, hreg, hframe⟩ := next_setReg ho
  exact ⟨t, hnext, hreg ▸ hv, hframe⟩

/-- `next_setReg` for a state already known to be the outcome. -/
theorem reg_of_next_setReg {t : State} (ho : o = .next (s.setReg rd v)) (ht : o = .next t) : t.reg rd = v := by
  obtain rfl : s.setReg rd v = t := Host.Outcome.next.inj (ho.symm.trans ht)
  exact setReg_reg_same s rd v

end

/-! ## The comparisons (R132 to R134) -/

theorem boolQword_decide (p : Prop) [Decidable p] : boolQword (decide p) = if p then 1 else 0 :=
  if_congr decide_eq_true_iff rfl rfl

theorem boolQword_eq_one_iff (b : Bool) : boolQword b = 1 ↔ b = true := by
  cases b <;> decide

/-- The value set on a condition is 1 exactly where a trap on that condition faults (R134). -/
theorem boolQword_eq_one_iff_fault {o : Host.Outcome State Fault Refusal} {b : Bool} {f : Fault} {s : State}
    (ho : o = if b then .fault f else .next s) : boolQword b = 1 ↔ o = .fault f := by
  rw [boolQword_eq_one_iff, ho]
  cases b with
  | true => exact iff_of_true rfl rfl
  | false => exact iff_of_false nofun nofun

/-- A comparison of dwords by an injective view into a total order: one of the two directions gives 1, or neither does and the
dwords are equal (R134). -/
theorem boolQword_lt_trichotomy {α : Type} [LinearOrder α] {view : Dword → α} (hview : Function.Injective view) (a b : Dword) :
    (boolQword (decide (view a < view b)) = 1 ∧ boolQword (decide (view b < view a)) = 0 ∧ a ≠ b) ∨
    (boolQword (decide (view a < view b)) = 0 ∧ boolQword (decide (view b < view a)) = 1 ∧ a ≠ b) ∨
    (boolQword (decide (view a < view b)) = 0 ∧ boolQword (decide (view b < view a)) = 0 ∧ a = b) := by
  simp only [boolQword_decide]
  rcases lt_trichotomy (view a) (view b) with hlt | heq | hgt
  · exact .inl ⟨if_pos hlt, if_neg hlt.not_gt, ne_of_apply_ne view hlt.ne⟩
  · exact .inr (.inr ⟨if_neg heq.not_lt, if_neg heq.not_gt, hview heq⟩)
  · exact .inr (.inl ⟨if_neg hgt.not_gt, if_pos hgt, ne_of_apply_ne view hgt.ne'⟩)

/-! ## The statements -/

/-- Settles O33: each operation writes its 128-bit value verbatim, whose bits the library gives. -/
theorem logicalOperationsActOnAllBits : Obligations.LogicalOperationsActOnAllBits :=
  fun s rd rs rt =>
    ⟨next_setReg_getLsbD (exec_and s rd rs rt) fun _ _ => BitVec.getLsbD_and,
      next_setReg_getLsbD (exec_or s rd rs rt) fun _ _ => BitVec.getLsbD_or,
      next_setReg_getLsbD (exec_xor s rd rs rt) fun _ _ => BitVec.getLsbD_xor,
      next_setReg_getLsbD (exec_nor s rd rs rt) fun k hk => by
        rw [BitVec.getLsbD_not, BitVec.getLsbD_or, decide_eq_true hk, Bool.true_and]⟩

/-- Settles O34: the comparison's truth value, written as the 128-bit 1 or 0. -/
theorem setOnLessThanComparesTheDwordViews : Obligations.SetOnLessThanComparesTheDwordViews := by
  intro s rd rs rt
  simp only [← boolQword_decide]
  exact ⟨next_setReg (exec_slt s rd rs rt), next_setReg (exec_sltu s rd rs rt)⟩

/-- Settles O35: the trap tests the comparison that is set, and both views of a dword determine it. -/
theorem setOnLessThanWritesOneExactlyWhenTheTrapFaults :
    Obligations.SetOnLessThanWritesOneExactlyWhenTheTrapFaults := by
  intro s t t' u u' rd rs rt ht ht' hu hu'
  rw [reg_of_next_setReg (exec_slt s rd rs rt) ht, reg_of_next_setReg (exec_slt s rd rt rs) ht',
    reg_of_next_setReg (exec_sltu s rd rs rt) hu, reg_of_next_setReg (exec_sltu s rd rt rs) hu']
  exact ⟨boolQword_eq_one_iff_fault (exec_tlt s rs rt), boolQword_eq_one_iff_fault (exec_tltu s rs rt),
    boolQword_lt_trichotomy (fun _ _ => BitVec.eq_of_toInt_eq) _ _,
    boolQword_lt_trichotomy (fun _ _ => BitVec.eq_of_toNat_eq) _ _⟩

end Sys2Proof.Machine
end

section
/-! PROOFS, spec/46_traps_system.md: complementary trap conditions (R136 to R141), what each trap answers on the 64-bit views (R135,
D8), and SYNC (R144). -/

namespace Sys2Proof.Machine

/-! ## Complementary traps -/

/-- The trap whose condition is the negation of this one's (R136 to R141). -/
def TrapKind.complement : TrapKind → TrapKind
  | .tge => .tlt
  | .tgeu => .tltu
  | .tlt => .tge
  | .tltu => .tgeu
  | .teq => .tne
  | .tne => .teq

/-- The two conditions are each other's negation whatever the view, since the views are totally ordered. -/
theorem trapHolds_complement (v : View) (k : TrapKind) (a b : Qword) :
    trapHolds v k.complement a b = !trapHolds v k a b := by
  cases k with
  | tge | tgeu => simp only [TrapKind.complement, trapHolds, ge_iff_le, ← decide_not, not_le]
  | tlt | tltu => simp only [TrapKind.complement, trapHolds, ge_iff_le, ← decide_not, not_lt]
  | teq => simp only [TrapKind.complement, trapHolds, ne_eq, decide_not]
  | tne => simp only [TrapKind.complement, trapHolds, ne_eq, decide_not, Bool.not_not]

/-- Of a trap and its complement the one whose condition holds faults, and the other does nothing. -/
theorem trapIf_complement_cases (c : Config) (k : TrapKind) (rs rt : RegIdx) (s : State) :
    (trapIf c k rs rt s = .error (.trap k rs rt) ∧ trapIf c k.complement rs rt s = .ok s) ∨
    (trapIf c k rs rt s = .ok s ∧ trapIf c k.complement rs rt s = .error (.trap k.complement rs rt)) := by
  have hneg := trapHolds_complement c.trapView k (s.reg rs) (s.reg rt)
  rcases trapIf_cases c k rs rt s with ⟨hk, htrap⟩ | ⟨hk, hok⟩ <;> rw [hk] at hneg
  · exact .inl ⟨htrap, if_neg (Bool.eq_false_iff.mp hneg)⟩
  · exact .inr ⟨hok, if_pos hneg⟩

/-- Settles O37: TNE, TLT and TLTU are the complements of TEQ, TGE and TGEU. -/
theorem exactlyOneOfComplementaryTrapsFaults : Obligations.ExactlyOneOfComplementaryTrapsFaults :=
  fun c s rs rt =>
    ⟨trapIf_complement_cases c .teq rs rt s, trapIf_complement_cases c .tge rs rt s, trapIf_complement_cases c .tgeu rs rt s⟩

/-! ## What each trap answers on the 64-bit views -/

/-- `exec_of_trapIf` with the condition given as a proposition. -/
theorem exec_of_trapHolds_iff {i : Instr} {s : State} {p : Prop} [Decidable p] (k : TrapKind) (rs rt : RegIdx)
    (hi : handle referenceConfig i s = trapIf referenceConfig k rs rt s)
    (hp : trapHolds .dword k (s.reg rs) (s.reg rt) = true ↔ p) :
    exec i s = if p then .fault (.trap k rs rt) else .next s :=
  (exec_of_trapIf k rs rt hi).trans (if_congr hp rfl rfl)

section
variable (s : State) (rs rt : RegIdx)

theorem exec_tge : exec (.tge rs rt) s =
    if (s.readDword rs).toInt ≥ (s.readDword rt).toInt then .fault (.trap .tge rs rt) else .next s :=
  exec_of_trapHolds_iff .tge rs rt rfl decide_eq_true_iff

theorem exec_tgeu : exec (.tgeu rs rt) s =
    if (s.readDword rs).toNat ≥ (s.readDword rt).toNat then .fault (.trap .tgeu rs rt) else .next s :=
  exec_of_trapHolds_iff .tgeu rs rt rfl decide_eq_true_iff

/-- `exec_tlt` with SLT's comparison as an inequality (R138). -/
theorem exec_tlt_toInt : exec (.tlt rs rt) s =
    if (s.readDword rs).toInt < (s.readDword rt).toInt then .fault (.trap .tlt rs rt) else .next s :=
  exec_of_trapHolds_iff .tlt rs rt rfl decide_eq_true_iff

/-- `exec_tltu` with SLTU's comparison as an inequality (R139). -/
theorem exec_tltu_toNat : exec (.tltu rs rt) s =
    if (s.readDword rs).toNat < (s.readDword rt).toNat then .fault (.trap .tltu rs rt) else .next s :=
  exec_of_trapHolds_iff .tltu rs rt rfl decide_eq_true_iff

/-- TEQ compares the unsigned views, which determine the dwords (R140). -/
theorem exec_teq : exec (.teq rs rt) s =
    if s.readDword rs = s.readDword rt then .fault (.trap .teq rs rt) else .next s :=
  exec_of_trapHolds_iff .teq rs rt rfl (decide_eq_true_iff.trans BitVec.toNat_inj)

/-- TNE compares the unsigned views, which determine the dwords (R141). -/
theorem exec_tne : exec (.tne rs rt) s =
    if s.readDword rs ≠ s.readDword rt then .fault (.trap .tne rs rt) else .next s :=
  exec_of_trapHolds_iff .tne rs rt rfl (decide_eq_true_iff.trans BitVec.toNat_inj.not)

end

/-- Settles O36: the two branches of each trap's answer. -/
theorem trapsCompleteUnlessTheirConditionHolds : Obligations.TrapsCompleteUnlessTheirConditionHolds := by
  intro s rs rt
  rw [exec_tge, exec_tgeu, exec_tlt_toInt, exec_tltu_toNat, exec_teq, exec_tne]
  exact ⟨fun h => if_neg h, fun h => if_pos h, fun h => if_neg h, fun h => if_pos h,
    fun h => if_neg h, fun h => if_pos h, fun h => if_neg h, fun h => if_pos h,
    fun h => if_neg h, fun h => if_pos h, fun h => if_neg h, fun h => if_pos h⟩

/-! ## SYNC -/

theorem handle_sync (c : Config) (s : State) : handle c .sync s = .ok s := rfl

/-- A call of the core on a word that decodes to an instruction whose handler completes (R31). -/
theorem execute_of_handle_ok {c : Config} {w : Word} {i : Instr} {s t : State} (hw : decodeWith c.encoding w = .ok i)
    (hi : handle c i s = .ok t) : execute c w s = (t, .ok) := by
  rw [execute, dispatchWord_of_decodeWith_ok hw, hi]

/-- Settles O39: the word decodes to SYNC whatever its other fields are. -/
theorem syncCompletesWithoutEffect : Obligations.SyncCompletesWithoutEffect :=
  ⟨fun s => (exec_next_iff .sync s s).mpr (handle_sync _ s),
    fun c _ s hopcode hfunct => execute_of_handle_ok (decodeWith_of_funct_assigned hopcode hfunct) (handle_sync c s)⟩

end Sys2Proof.Machine
end

section
/-! PROOFS, spec/60_exceptions.md: SYSCALL and BREAK always fault (R152), and each instruction raises its own fault kind or none
(R147, R155). -/

namespace Sys2Proof.Machine

/-! ## SYSCALL and BREAK (R152) -/

theorem handle_syscall (c : Config) (s : State) : handle c .syscall s = .error (.softwareException .syscall) := rfl

theorem handle_brk (c : Config) (s : State) : handle c .brk s = .error (.softwareException .brk) := rfl

/-- Settles O38: neither handler looks at the state. -/
theorem syscallAndBreakAlwaysFault : Obligations.SyscallAndBreakAlwaysFault :=
  fun s => ⟨(exec_fault_iff .syscall s _).mpr (handle_syscall _ s), (exec_fault_iff .brk s _).mpr (handle_brk _ s)⟩

/-! ## The fault proper to an instruction (R147, R155) -/

section
variable {c : Config} {s : State} {f : Fault} {rd rs rt : RegIdx}

theorem trappingWord_error {op : OverflowOp} {ov : Bool} {r : Word} (h : trappingWord c op ov rd r s = .error f) :
    f = .arithmeticOverflow op := by
  rcases trappingWord_cases c op ov rd r s with ⟨-, e⟩ | ⟨-, e⟩ <;> cases e.symm.trans h
  rfl

theorem trappingDword_error {op : OverflowOp} {ov : Bool} {r : Dword} (h : trappingDword c op ov rd r s = .error f) :
    f = .arithmeticOverflow op := by
  rcases trappingDword_cases c op ov rd r s with ⟨-, e⟩ | ⟨-, e⟩ <;> cases e.symm.trans h
  rfl

theorem trapIf_error {k : TrapKind} (h : trapIf c k rs rt s = .error f) : f = .trap k rs rt := by
  rcases trapIf_cases c k rs rt s with ⟨-, e⟩ | ⟨-, e⟩ <;> cases e.symm.trans h
  rfl

theorem moveIf_ne_error (cond : Bool) : moveIf c cond rd rs s ≠ .error f := by
  intro h
  rcases moveIf_cases c cond rd rs s with ⟨-, e⟩ | ⟨-, e⟩ <;> cases e.symm.trans h

end

/-- The fault proper to an instruction, by the table of R147; an instruction without a constructor here has none. -/
inductive OwnFault : Instr → Fault → Prop
  | add (rd rs rt : RegIdx) : OwnFault (.add rd rs rt) (.arithmeticOverflow .add)
  | sub (rd rs rt : RegIdx) : OwnFault (.sub rd rs rt) (.arithmeticOverflow .sub)
  | dadd (rd rs rt : RegIdx) : OwnFault (.dadd rd rs rt) (.arithmeticOverflow .dadd)
  | dsub (rd rs rt : RegIdx) : OwnFault (.dsub rd rs rt) (.arithmeticOverflow .dsub)
  | tge (rs rt : RegIdx) : OwnFault (.tge rs rt) (.trap .tge rs rt)
  | tgeu (rs rt : RegIdx) : OwnFault (.tgeu rs rt) (.trap .tgeu rs rt)
  | tlt (rs rt : RegIdx) : OwnFault (.tlt rs rt) (.trap .tlt rs rt)
  | tltu (rs rt : RegIdx) : OwnFault (.tltu rs rt) (.trap .tltu rs rt)
  | teq (rs rt : RegIdx) : OwnFault (.teq rs rt) (.trap .teq rs rt)
  | tne (rs rt : RegIdx) : OwnFault (.tne rs rt) (.trap .tne rs rt)
  | syscall : OwnFault .syscall (.softwareException .syscall)
  | brk : OwnFault .brk (.softwareException .brk)

/-- A handler raises no fault but its instruction's own, under every configuration (R155). -/
theorem handle_error_ownFault {c : Config} {i : Instr} {s : State} {f : Fault} (h : handle c i s = .error f) :
    OwnFault i f := by
  cases i with
  | add | sub =>
    obtain rfl := trappingWord_error h
    constructor
  | dadd | dsub =>
    obtain rfl := trappingDword_error h
    constructor
  | tge | tgeu | tlt | tltu | teq | tne =>
    obtain rfl := trapIf_error h
    constructor
  | syscall | brk =>
    obtain rfl := Except.error.inj h
    constructor
  | movz | movn => exact absurd h (moveIf_ne_error _)
  | _ => cases h

/-- `exec` never refuses: it completes, or raises the instruction's own fault. -/
theorem exec_next_or_ownFault (i : Instr) (s : State) :
    (∃ t, exec i s = .next t) ∨ ∃ f, OwnFault i f ∧ exec i s = .fault f := by
  cases h : handle referenceConfig i s with
  | ok t => exact .inl ⟨t, (exec_next_iff i s t).mpr h⟩
  | error f => exact .inr ⟨f, handle_error_ownFault h, (exec_fault_iff i s f).mpr h⟩

/-- Settles O53: the constructors of `OwnFault` are the clauses of the statement. -/
theorem eachInstructionRaisesOnlyItsOwnFault : Obligations.EachInstructionRaisesOnlyItsOwnFault := by
  intro i s
  rcases exec_next_or_ownFault i s with hnext | ⟨f, hown, h⟩
  · exact .inl hnext
  refine .inr ?_
  cases hown with
  | add rd rs rt => exact .inl ⟨rd, rs, rt, .inl ⟨rfl, h⟩⟩
  | sub rd rs rt => exact .inl ⟨rd, rs, rt, .inr (.inl ⟨rfl, h⟩)⟩
  | dadd rd rs rt => exact .inl ⟨rd, rs, rt, .inr (.inr (.inl ⟨rfl, h⟩))⟩
  | dsub rd rs rt => exact .inl ⟨rd, rs, rt, .inr (.inr (.inr ⟨rfl, h⟩))⟩
  | tge rs rt => exact .inr (.inl ⟨rs, rt, .inl ⟨rfl, h⟩⟩)
  | tgeu rs rt => exact .inr (.inl ⟨rs, rt, .inr (.inl ⟨rfl, h⟩)⟩)
  | tlt rs rt => exact .inr (.inl ⟨rs, rt, .inr (.inr (.inl ⟨rfl, h⟩))⟩)
  | tltu rs rt => exact .inr (.inl ⟨rs, rt, .inr (.inr (.inr (.inl ⟨rfl, h⟩)))⟩)
  | teq rs rt => exact .inr (.inl ⟨rs, rt, .inr (.inr (.inr (.inr (.inl ⟨rfl, h⟩))))⟩)
  | tne rs rt => exact .inr (.inl ⟨rs, rt, .inr (.inr (.inr (.inr (.inr ⟨rfl, h⟩))))⟩)
  | syscall => exact .inr (.inr (.inl ⟨rfl, h⟩))
  | brk => exact .inr (.inr (.inr ⟨rfl, h⟩))

end Sys2Proof.Machine
end

section
/-! PROOFS, spec/70_reset_and_hazards.md: the driver's fetch and the one thing a step does with the word (R166), a fault's final state
(R169), driver T beside driver S (R170), and how a jump moves pc and npc over the steps after it (R168, R171). -/

namespace Sys2Proof.Machine

/-! ## The fetch (R44, R166) -/

/-- The two low bits of an address are zero exactly when it is a multiple of 4. -/
theorem setWidth_two_eq_zero_iff (a : Word) : a.setWidth 2 = 0 ↔ a.toNat % 4 = 0 := by
  rw [BitVec.toNat_eq, BitVec.toNat_setWidth]
  rfl

section
variable {c : Config} {s : State}

/-- A misaligned pc is refused, whatever the text holds (R166). -/
theorem fetchAtPc_of_misaligned (h : s.pc.toNat % 4 ≠ 0) : fetchAtPc c s = .error (.misalignedFetch s.pc) :=
  if_pos (mt (setWidth_two_eq_zero_iff _).mp h)

/-- At an aligned pc without a loaded word the fetch is refused (U16). -/
theorem fetchAtPc_of_unmapped (h : s.pc.toNat % 4 = 0) (hw : fetchWord c.fetchByteOrder s.text s.pc = none) :
    fetchAtPc c s = .error (.unmappedFetch s.pc) := by
  rw [fetchAtPc, if_neg (not_not_intro ((setWidth_two_eq_zero_iff _).mpr h)), hw]

/-- At an aligned pc the loaded word is fetched (R41, R166). -/
theorem fetchAtPc_of_mapped {w : Word} (h : s.pc.toNat % 4 = 0) (hw : fetchWord c.fetchByteOrder s.text s.pc = some w) :
    fetchAtPc c s = .ok w := by
  rw [fetchAtPc, if_neg (not_not_intro ((setWidth_two_eq_zero_iff _).mpr h)), hw]

/-- Everything the fetch can answer, with the condition of each answer. -/
theorem fetchAtPc_cases (c : Config) (s : State) :
    (s.pc.toNat % 4 ≠ 0 ∧ fetchAtPc c s = .error (.misalignedFetch s.pc)) ∨
    (s.pc.toNat % 4 = 0 ∧ fetchWord c.fetchByteOrder s.text s.pc = none ∧ fetchAtPc c s = .error (.unmappedFetch s.pc)) ∨
    (∃ w, s.pc.toNat % 4 = 0 ∧ fetchWord c.fetchByteOrder s.text s.pc = some w ∧ fetchAtPc c s = .ok w) := by
  by_cases h : s.pc.toNat % 4 = 0
  · cases hw : fetchWord c.fetchByteOrder s.text s.pc with
    | none => exact .inr (.inl ⟨h, rfl, fetchAtPc_of_unmapped h hw⟩)
    | some w => exact .inr (.inr ⟨w, h, rfl, fetchAtPc_of_mapped h hw⟩)
  · exact .inl ⟨h, fetchAtPc_of_misaligned h⟩

theorem fetchAtPc_eq_ok_iff {w : Word} :
    fetchAtPc c s = .ok w ↔ s.pc.toNat % 4 = 0 ∧ fetchWord c.fetchByteOrder s.text s.pc = some w := by
  refine ⟨fun h => ?_, fun ⟨ha, hw⟩ => fetchAtPc_of_mapped ha hw⟩
  rcases fetchAtPc_cases c s with ⟨-, e⟩ | ⟨-, -, e⟩ | ⟨v, ha, hv, e⟩ <;> cases e.symm.trans h
  exact ⟨ha, hv⟩

theorem fetchAtPc_eq_error_iff {r : Refusal} :
    fetchAtPc c s = .error r ↔ (s.pc.toNat % 4 ≠ 0 ∧ r = .misalignedFetch s.pc) ∨
      (s.pc.toNat % 4 = 0 ∧ fetchWord c.fetchByteOrder s.text s.pc = none ∧ r = .unmappedFetch s.pc) := by
  constructor
  · intro h
    rcases fetchAtPc_cases c s with ⟨ha, e⟩ | ⟨ha, hw, e⟩ | ⟨w, -, -, e⟩ <;> cases e.symm.trans h
    · exact .inl ⟨ha, rfl⟩
    · exact .inr ⟨ha, hw, rfl⟩
  · rintro (⟨ha, rfl⟩ | ⟨ha, hw, rfl⟩)
    · exact fetchAtPc_of_misaligned ha
    · exact fetchAtPc_of_unmapped ha hw

end

/-! ## One step of the reference driver (R166) -/

section
variable {s : State}

/-- A step is refused exactly where its fetch is. -/
theorem step_eq_refused_iff {r : Refusal} : step s = .refused r ↔ fetchAtPc referenceConfig s = .error r := by
  rcases step_cases s with ⟨r', hf, e⟩ | ⟨w, hf, ⟨t, -, e⟩ | ⟨f, -, e⟩⟩ <;> simp [hf, e, eq_comm]

/-- A step that fetched a word answers what the word's dispatch answers on the advanced state. -/
theorem step_of_fetchAtPc {w : Word} (h : fetchAtPc referenceConfig s = .ok w) :
    step s = outcomeOf (dispatchWord referenceConfig w s.advance) := by
  rcases step_cases s with ⟨r, hf, -⟩ | ⟨v, hf, hstep⟩ <;> cases hf.symm.trans h
  rcases hstep with ⟨t, hd, e⟩ | ⟨f, hd, e⟩ <;> rw [hd, e, outcomeOf]

/-- A step that fetched an instruction's word is that instruction on the advanced state. -/
theorem step_of_fetched {w : Word} {i : Instr} (hw : fetchAtPc referenceConfig s = .ok w) (hi : decode w = .ok i) :
    step s = exec i s.advance := by
  rw [step_of_fetchAtPc hw, dispatchWord_of_decodeWith_ok (c := referenceConfig) hi, exec_eq_handle]

/-- A step that fetched a word the dispatcher rejects is the reject's fault (R148, R149). -/
theorem step_of_rejected {w : Word} {r : Reject} (hw : fetchAtPc referenceConfig s = .ok w) (hr : decode w = .error r) :
    step s = .fault (faultOfReject r) := by
  rw [step_of_fetchAtPc hw, dispatchWord, show decodeWith referenceConfig.encoding w = .error r from hr]
  rfl

/-- A step faults exactly on a rejected word or where the decoded instruction does. -/
theorem step_eq_fault_iff {f : Fault} : step s = .fault f ↔ ∃ w, fetchAtPc referenceConfig s = .ok w ∧
    ((∃ r, decode w = .error r ∧ f = faultOfReject r) ∨ ∃ i, decode w = .ok i ∧ exec i s.advance = .fault f) := by
  constructor
  · intro h
    cases hw : fetchAtPc referenceConfig s with
    | error r => cases h.symm.trans (step_eq_refused_iff.mpr hw)
    | ok w =>
      refine ⟨w, rfl, ?_⟩
      cases hd : decode w with
      | error r => exact .inl ⟨r, rfl, Host.Outcome.fault.inj (h.symm.trans (step_of_rejected hw hd))⟩
      | ok i => exact .inr ⟨i, rfl, (step_of_fetched hw hd).symm.trans h⟩
  · rintro ⟨w, hw, ⟨r, hr, rfl⟩ | ⟨i, hi, hexec⟩⟩
    · exact step_of_rejected hw hr
    · exact (step_of_fetched hw hi).trans hexec

end

/-- Settles O11: the aligned, loaded word is the one fetched. -/
theorem stepRunsTheDecodedInstruction : Obligations.StepRunsTheDecodedInstruction :=
  fun _ _ _ ha hw hi => step_of_fetched (fetchAtPc_of_mapped ha hw) hi

/-- Settles O12: refusals are the fetch's, faults the dispatcher's or the handler's. -/
theorem stepStopsExactlyWhereDriverDispatcherOrHandlerStops :
    Obligations.StepStopsExactlyWhereDriverDispatcherOrHandlerStops := by
  refine fun s => ⟨fun ha => step_eq_refused_iff.mpr (fetchAtPc_of_misaligned ha),
    fun ha hw => step_eq_refused_iff.mpr (fetchAtPc_of_unmapped ha hw),
    fun w _ ha hw hr => step_of_rejected (fetchAtPc_of_mapped ha hw) hr,
    fun w _ ha hw hr => step_of_rejected (fetchAtPc_of_mapped ha hw) hr,
    fun r h => fetchAtPc_eq_error_iff.mp (step_eq_refused_iff.mp h), fun f => ?_⟩
  simp only [step_eq_fault_iff, fetchAtPc_eq_ok_iff, and_assoc]
  rfl

/-- The text of `withFetchWord` at 32 bits is the word placed at pc (R41). -/
theorem textWithWord_toNat (c : Config) (s : State) (w : Word) :
    textWithWord c s 32 w.toNat = placeWord c.fetchByteOrder s.text s.pc w := by
  rw [textWithWord, Nat.mod_eq_of_lt w.isLt, BitVec.ofNat_toNat, BitVec.setWidth_eq]

/-- Settles O14: the placed word is fetched back, and decodes to the instruction it encodes. -/
theorem placedInstructionIsTheNextStep : Obligations.PlacedInstructionIsTheNextStep := by
  intro s i ha
  have hfetch : fetchAtPc referenceConfig (s.withFetchWord 32 (encode i).toNat) = .ok (encode i) := by
    refine fetchAtPc_of_mapped ha ?_
    rw [withFetchWord_text, textWithWord_toNat, withFetchWord_pc, fetchWord_placeWord _ _ _ ha]
  exact step_of_fetched hfetch (decodeWith_encodeWith standardFunctMap_wellFormed i)

/-! ## Driver T beside driver S (R170) -/

section
variable {c : Config} {w : Word}

/-- A word that is no JALR is dispatched alike whatever pc holds (R25). -/
theorem dispatchWord_setPc (h : ∀ rd rs, decodeWith c.encoding w ≠ .ok (.jalr rd rs)) (s : State) (p : Word) :
    dispatchWord c w (s.setPc p) = (dispatchWord c w s).map (·.setPc p) := by
  unfold dispatchWord
  cases hw : decodeWith c.encoding w with
  | error r => rfl
  | ok i =>
    obtain ⟨-, hsetPc⟩ := noInstructionWritesPcAndOnlyJalrReadsIt c i s p
    exact hsetPc fun rd rs hi => h rd rs (hi ▸ hw)

/-- A call on a word that is no JALR commutes with a new pc, faults included (R25, R32). -/
theorem execute_setPc (h : ∀ rd rs, decodeWith c.encoding w ≠ .ok (.jalr rd rs)) (s : State) (p : Word) :
    execute c w (s.setPc p) = ((execute c w s).1.setPc p, (execute c w s).2) := by
  unfold execute
  rw [dispatchWord_setPc h]
  cases dispatchWord c w s <;> rfl

end

/-- Settles O55: driver T sets pc after the call, driver S before it, and a call on no JALR commutes with that. -/
theorem driversAgreeOnEveryWordButJalr : Obligations.DriversAgreeOnEveryWordButJalr := by
  intro c w s h
  have hadvance : s.advance = (s.setNpc (s.npc + 4)).setPc s.npc := rfl
  rw [driveWordS, driveWordT, hadvance, execute_setPc h]

/-- The state a driver's outcome carries. -/
def DriverOutcome.state : DriverOutcome → State
  | .running s => s
  | .resumed _ s => s
  | .halted _ s => s
  | .stuck _ s => s

@[simp] theorem dispose_state (c : Config) (out : CoreOutcome) (s : State) : (dispose c out s).state = s := by
  unfold dispose
  split <;> rfl

/-- A call of the core keeps the text (R40). -/
theorem execute_text (c : Config) (w : Word) (s : State) : (execute c w s).1.text = s.text := by
  rcases execute_cases c w s with ⟨t, hd, e⟩ | ⟨f, -, e⟩ <;> rw [e]
  rcases dispatchWord_cases c w s with ⟨i, -, ei⟩ | ⟨r, -, er⟩
  · exact effect_text (handle_hasEffect c i s t (ei ▸ hd))
  · cases er.symm.trans hd

/-- A step of either driver keeps the text, whatever its outcome (R49). -/
theorem drive_state_text (c : Config) (s : State) : (drive c s).state.text = s.text := by
  unfold drive
  cases fetchAtPc c s with
  | error r => rfl
  | ok w =>
    cases c.driver with
    | s => exact (congrArg State.text (dispose_state ..)).trans (execute_text c w s.advance)
    | t => exact (congrArg State.text (dispose_state ..)).trans (execute_text c w (s.setNpc (s.npc + 4)))

/-- No aligned address of the text holds a word that decodes to JALR. -/
def JalrFree (c : Config) (m : List Host.Cell) : Prop :=
  ∀ (a w : Word) (rd rs : RegIdx), a.toNat % 4 = 0 → fetchWord c.fetchByteOrder m a = some w →
    decodeWith c.encoding w ≠ .ok (.jalr rd rs)

/-- Over a text without JALR one step is the same under both drivers (R170). -/
theorem drive_eq_of_jalrFree {c : Config} {s : State} (h : JalrFree c s.text) :
    drive { c with driver := .s } s = drive { c with driver := .t } s := by
  unfold drive
  rw [show fetchAtPc { c with driver := .s } s = fetchAtPc c s from rfl,
    show fetchAtPc { c with driver := .t } s = fetchAtPc c s from rfl]
  cases hw : fetchAtPc c s with
  | error r => rfl
  | ok w =>
    obtain ⟨ha, hf⟩ := fetchAtPc_eq_ok_iff.mp hw
    exact driversAgreeOnEveryWordButJalr c w s fun rd rs => h s.pc w rd rs ha hf

/-- Settles O56, by induction on the number of steps: each keeps the text, so the next is over a text without JALR again. -/
theorem runsUnderBothDriversAgreeWithoutJalr : Obligations.RunsUnderBothDriversAgreeWithoutJalr := by
  intro c s (h : JalrFree c s.text) n
  induction n generalizing s with
  | zero => rfl
  | succ n ih =>
    have htext := drive_state_text { c with driver := .t } s
    rw [driveRun, driveRun, drive_eq_of_jalrFree h]
    cases e : drive { c with driver := .t } s with
    | running t | resumed f t =>
      rw [e] at htext
      exact ih t (htext ▸ h)
    | halted | stuck => rfl

/-- Settles O57: the handler links pc + 8, and pc is A + 4 already under driver S but still A under driver T. -/
theorem jalrLinksAPlusTwelveUnderSAndAPlusEightUnderT :
    Obligations.JalrLinksAPlusTwelveUnderSAndAPlusEightUnderT := by
  intro c w s rd rs hr0 hlink hw hnpc
  have hexecute (u : State) :
      execute c w u = ((u.setReg rd (sextWord (u.pc + 8))).setNpc (u.readWord rs), .ok) := by
    rw [execute_of_handle_ok hw (handle_jalr c rd rs u), hlink, writeQword_of_ordinary hr0]
  have hsum : s.pc + 4 + 8 = s.pc + 12 := BitVec.add_assoc ..
  refine ⟨⟨_, by rw [driveWordS, hexecute]; rfl, ?_, hnpc, rfl⟩,
    ⟨_, by rw [driveWordT, hexecute]; rfl, ?_, hnpc, rfl⟩⟩
  · rw [setNpc_reg, setReg_reg_same, advance_pc, hnpc, hsum]
  · rw [setPc_reg, setNpc_reg, setReg_reg_same, setNpc_pc]

/-! ## Jumps and the delay slot (R168, R171) -/

/-- The step of a fetched instruction is its meaning on the advanced state. -/
theorem step_of_fetches {s : State} {i : Instr} (h : Fetches s i) : step s = exec i s.advance := by
  obtain ⟨w, hw, hi⟩ := h
  exact step_of_fetched hw hi

/-- The instruction is a jump to what `rs` holds (R90, R91). -/
def JumpsThrough (j : Instr) (rs : RegIdx) : Prop := j = .jr rs ∨ ∃ rd, j = .jalr rd rs

/-- The step of a jump goes on at the old npc, with the target as the next npc; JALR links the old npc + 8 (R168, D10, D13). -/
theorem counters_of_step_jump {s t : State} {rs : RegIdx} {j : Instr} (hj : JumpsThrough j rs) (hf : Fetches s j)
    (h : step s = .next t) :
    t.pc = s.npc ∧ t.npc = s.readWord rs ∧ ∀ rd, j = .jalr rd rs → t.reg rd = sextWord (s.npc + 8) := by
  rw [step_of_fetches hf] at h
  rcases hj with rfl | ⟨rd, rfl⟩
  · cases (exec_jr s.advance rs).symm.trans h
    exact ⟨rfl, rfl, nofun⟩
  · cases (exec_jalr s.advance rd rs).symm.trans h
    refine ⟨rfl, rfl, fun rd' e => ?_⟩
    cases e
    rw [setNpc_reg, setReg_reg_same, advance_pc]

/-- The step of an instruction that is no jump moves pc to npc and npc to the address after it (R25, R26, R166). -/
theorem counters_of_step_nonJump {s t : State} {i : Instr} (hi : isJump i = false) (hf : Fetches s i)
    (h : step s = .next t) : t.pc = s.npc ∧ t.npc = s.npc + 4 := by
  rw [step_of_fetches hf, exec_next_iff] at h
  obtain ⟨-, -, -, -, -, hnpc, hpc, -⟩ := handle_sameExcept h
  exact ⟨hpc, hnpc (npc_notMem_writesOf hi)⟩

/-- Settles O58: the jump leaves its target in npc, which the slot's step moves to pc. -/
theorem jumpTakesEffectAfterOneInstruction : Obligations.JumpTakesEffectAfterOneInstruction := by
  intro s t u rs j i hj hfj hst hfi hi htu
  obtain ⟨htpc, htnpc, -⟩ := counters_of_step_jump hj hfj hst
  obtain ⟨hupc, hunpc⟩ := counters_of_step_nonJump hi hfi htu
  rw [htnpc] at hupc hunpc
  exact ⟨htpc, htnpc, hupc, hunpc⟩

/-- Settles O59: the second jump moves the first target to pc and leaves its own in npc. -/
theorem jumpInDelaySlotRunsOneInstructionAtTheFirstTarget :
    Obligations.JumpInDelaySlotRunsOneInstructionAtTheFirstTarget := by
  intro s t u v rs1 rs2 j k i hj hk hfj hst hfk htu hfi hi huv
  obtain ⟨-, htnpc, -⟩ := counters_of_step_jump hj hfj hst
  obtain ⟨hupc, hunpc, hlink⟩ := counters_of_step_jump hk hfk htu
  obtain ⟨hvpc, hvnpc⟩ := counters_of_step_nonJump hi hfi huv
  rw [htnpc] at hupc hlink
  rw [hunpc] at hvpc hvnpc
  exact ⟨hupc, hunpc, hvpc, hvnpc, hlink⟩

/-! ## Faults (R169) -/

/-- The reference driver on a fetched word that faults: the run halts with only the counters advanced (R32, R169). -/
theorem drive_of_execute_fault {s s' : State} {w : Word} {f : Fault} (hw : fetchAtPc referenceConfig s = .ok w)
    (h : execute referenceConfig w s.advance = (s', .fault f)) : drive referenceConfig s = .halted f s.advance := by
  obtain rfl : s' = s.advance := faultingCallChangesNoState _ _ _ _ f h
  rw [drive, hw, referenceConfig_driver]
  simp only [driveWordS, h, dispose, referenceConfig_faultDisposition]

/-- The reference driver halts in no other state than the advanced one. -/
theorem state_of_drive_halted {s u : State} {f : Fault} (h : drive referenceConfig s = .halted f u) : u = s.advance := by
  cases hw : fetchAtPc referenceConfig s with
  | error r =>
    rw [drive, hw] at h
    cases h
  | ok w =>
    rw [drive, hw, referenceConfig_driver] at h
    rcases driveWordS_cases referenceConfig w s with ⟨t, -, e⟩ | ⟨g, -, e⟩ <;> cases e.symm.trans h
    rfl

/-- Settles O60: the final state is the advanced one; after a jump its pc is the target, and the link is not written again. -/
theorem faultHaltsTheRunWithCountersAdvanced : Obligations.FaultHaltsTheRunWithCountersAdvanced := by
  refine ⟨fun s s' w f hw h => ?_, fun s t u rs j f hj hf hst hhalt => ?_⟩
  · have hdrive := drive_of_execute_fault hw h
    exact ⟨hdrive, congrArg stepOutcome hdrive⟩
  · obtain ⟨-, hnpc, hlink⟩ := counters_of_step_jump hj hf hst
    obtain rfl : u = t.advance := state_of_drive_halted hhalt
    rw [← hnpc]
    exact ⟨rfl, hlink⟩

/-! ## HI and LO (R172) -/

/-- A multiply or divide completes on every operand and leaves every register as it was (R108, R114). -/
theorem exec_mulDiv {j : Instr} (h : ∃ rs rt, IsMulDiv j rs rt) (s : State) :
    ∃ t, exec j s = .next t ∧ ∀ i, t.reg i = s.reg i := by
  have hnext : ∃ t, exec j s = .next t := by
    obtain ⟨rs, rt, rfl | rfl | rfl | rfl⟩ := h <;> exact ⟨_, rfl⟩
  obtain ⟨t, ht⟩ := hnext
  obtain ⟨-, -, -, -, hreg⟩ := specialRegistersChangeOnlyWhereNamed j s t ht
  exact ⟨t, ht, hreg h⟩

/-- Settles O54: MFHI and MFLO read the state the instruction left, and no multiply or divide writes a register. -/
theorem hiAndLoNeedNoSpacing : Obligations.HiAndLoNeedNoSpacing := by
  refine fun i j s t rd _ => ⟨⟨_, exec_mfhi t rd, setReg_reg_same t rd t.hi⟩,
    ⟨_, exec_mflo t rd, setReg_reg_same t rd t.lo⟩, fun hj _ => ?_⟩
  obtain ⟨u, hu, hreg⟩ := exec_mulDiv hj t
  exact ⟨u, hu, hreg rd⟩

end Sys2Proof.Machine
end
